-- ==== Sys2Proof/Word.lean ====
section
/-! DEFINITION. The widths the spec works with: a byte, a nibble, a request word (spec/00_scope.md R7, R10). -/

namespace Sys2Proof

/-- One byte of the bus or of the receiver's memories (R7). -/
abbrev Byte := BitVec 8

/-- A 4-bit half of a byte, and what the four data lines carry (R10, R14). -/
abbrev Nibble := BitVec 4

/-- A request word at the upstream port (R7, R65). -/
abbrev ReqWord := BitVec 10

end Sys2Proof
end

