-- ==== Sys2Proof/Syntax.lean ====
section
/-! DEFINITION. The instructions: one constructor per row of spec/opcode_table.json, in the table's order. -/

namespace Sys2Proof

/-- An instruction of one of the three encoded forms (spec/30_encoding.md R65): a request word (REQ10), a bus byte (BUS9)
or a single bootstrap nibble (NIB5). -/
inductive Instr where
  /-- INIT, REQ10 0x200 (R115). -/
  | init
  /-- RESERVED_REQ, REQ10 with K = 1 and a nonzero rest w (R75). -/
  | reservedReq (w : BitVec 9)
  /-- CMD b, REQ10 0x000 | b (R100). -/
  | cmd (b : Byte)
  /-- DATA b, REQ10 0x100 | b (R101). -/
  | data (b : Byte)
  /-- FUNCTION_SET, byte 0x28 (R157). -/
  | functionSet
  /-- FUNCTION_SET_OTHER, byte 0b001x_xxxx except 0x28 (R158). -/
  | functionSetOther (x : BitVec 5)
  /-- CURSOR_SHIFT_LEFT, byte 0x10 (R163). -/
  | cursorShiftLeft
  /-- CURSOR_SHIFT_RIGHT, byte 0x14 (R164). -/
  | cursorShiftRight
  /-- DISPLAY_SHIFT_LEFT, byte 0x18 (R165). -/
  | displayShiftLeft
  /-- DISPLAY_SHIFT_RIGHT, byte 0x1C (R166). -/
  | displayShiftRight
  /-- SHIFT_OTHER, byte 0b0001_xxxx except the four shifts (R167). -/
  | shiftOther (x : BitVec 4)
  /-- DISPLAY_CONTROL, byte 0b0000_1dck (R159). -/
  | displayControl (d c k : Bool)
  /-- ENTRY_MODE_SET, byte 0x06 (R161). -/
  | entryModeSet
  /-- ENTRY_MODE_OTHER, byte 0b0000_01xx except 0x06 (R162). -/
  | entryModeOther (x : BitVec 2)
  /-- INSTR_0x02_0x03, byte 0b0000_001x (R172). -/
  | instr02Or03 (x : Bool)
  /-- CLEAR_DISPLAY, byte 0x01 (R160). -/
  | clearDisplay
  /-- INSTR_0x00, byte 0x00 (R171). -/
  | instr00
  /-- SET_CGRAM_ADDR, byte 0b01aa_aaaa (R168). -/
  | setCgramAddr (a : BitVec 6)
  /-- SET_DDRAM_ADDR, byte 0b1aaa_aaaa (R169). -/
  | setDdramAddr (a : BitVec 7)
  /-- WRITE_DATA, RS = 1 with any byte (R170). -/
  | writeData (b : Byte)
  /-- BOOT_FUNCSET_8BIT, NIB5 (0, 0x3) (R119). -/
  | bootFuncset8bit
  /-- SWITCH_4BIT, NIB5 (0, 0x2) (R120). -/
  | switch4bit
  deriving DecidableEq, Repr

end Sys2Proof
end

