-- ==== Sys2Proof/WellFormed.lean ====
section
/-! DEFINITION. Which instructions have a word of their own: an OTHER row and the reserved row leave out the exact rows that
lie inside them (spec/30_encoding.md R67, R70, R73). -/

namespace Sys2Proof

/-- The instruction stands for a word its own row decodes from: RESERVED_REQ excludes 0x200 (R67), FUNCTION_SET_OTHER
excludes 0x28, SHIFT_OTHER the four shifts 0x10, 0x14, 0x18 and 0x1C, ENTRY_MODE_OTHER excludes 0x06 (R70). -/
def Instr.wellFormed : Instr → Bool
  | .init => true
  | .reservedReq w => w != 0
  | .cmd _ => true
  | .data _ => true
  | .functionSet => true
  | .functionSetOther x => x != 0b01000
  | .cursorShiftLeft => true
  | .cursorShiftRight => true
  | .displayShiftLeft => true
  | .displayShiftRight => true
  | .shiftOther x => x.extractLsb' 0 2 != 0
  | .displayControl _ _ _ => true
  | .entryModeSet => true
  | .entryModeOther x => x != 0b10
  | .instr02Or03 _ => true
  | .clearDisplay => true
  | .instr00 => true
  | .setCgramAddr _ => true
  | .setDdramAddr _ => true
  | .writeData _ => true
  | .bootFuncset8bit => true
  | .switch4bit => true

end Sys2Proof
end

