-- ==== Sys2Proof/Decode.lean ====
section
/-! DEFINITION. Decoding the three encoded forms (spec/30_encoding.md R65-R73), and the encoder, from the same tables. -/

namespace Sys2Proof

/-- The three encoded forms (R65). -/
inductive Form where
  | req10
  | bus9
  | nib5
  deriving DecidableEq, Repr

/-- A word of one of the three forms, at its own width (R65). -/
inductive Code where
  /-- a request word: K, RS, B (R66) -/
  | req10 (w : ReqWord)
  /-- RS, then the eight bits of the byte (R68) -/
  | bus9 (w : BitVec 9)
  /-- RS, then the nibble on D3..D0 (R69) -/
  | nib5 (w : BitVec 5)
  deriving DecidableEq, Repr

/-- Why a word is rejected. -/
inductive DecodeError where
  /-- the number does not fit the form's width (R65: there are no other lengths) -/
  | wordTooWide
  /-- a NIB5 value other than the two the block emits (R69) -/
  | noSuchNibble
  deriving DecidableEq, Repr

/-- A request word: each of the 1024 values has one meaning (R67). -/
def decodeReq (w : ReqWord) : Instr :=
  if w.getLsbD 9 then
    if w.extractLsb' 0 9 = 0 then .init else .reservedReq (w.extractLsb' 0 9)
  else if w.getLsbD 8 then .data (w.extractLsb' 0 8)
  else .cmd (w.extractLsb' 0 8)

/-- An instruction byte (RS = 0), by the class of its leading one (R70); inside a class the exact rows go first (R73). -/
def decodeByte (b : Byte) : Instr :=
  if b.getLsbD 7 then .setDdramAddr (b.extractLsb' 0 7)
  else if b.getLsbD 6 then .setCgramAddr (b.extractLsb' 0 6)
  else if b.getLsbD 5 then
    if b = 0x28 then .functionSet else .functionSetOther (b.extractLsb' 0 5)
  else if b.getLsbD 4 then
    if b = 0x10 then .cursorShiftLeft
    else if b = 0x14 then .cursorShiftRight
    else if b = 0x18 then .displayShiftLeft
    else if b = 0x1C then .displayShiftRight
    else .shiftOther (b.extractLsb' 0 4)
  else if b.getLsbD 3 then .displayControl (b.getLsbD 2) (b.getLsbD 1) (b.getLsbD 0)
  else if b.getLsbD 2 then
    if b = 0x06 then .entryModeSet else .entryModeOther (b.extractLsb' 0 2)
  else if b.getLsbD 1 then .instr02Or03 (b.getLsbD 0)
  else if b.getLsbD 0 then .clearDisplay
  else .instr00

/-- A bus value: RS = 1 is WRITE_DATA for every byte, RS = 0 an instruction byte (R68, R70). -/
def decodeBus (w : BitVec 9) : Instr :=
  if w.getLsbD 8 then .writeData (w.extractLsb' 0 8) else decodeByte (w.extractLsb' 0 8)

/-- A single nibble: the block emits exactly two values (R69). -/
def decodeNib (w : BitVec 5) : Except DecodeError Instr :=
  if w = 0x03 then .ok .bootFuncset8bit
  else if w = 0x02 then .ok .switch4bit
  else .error .noSuchNibble

/-- The instruction a word of a form stands for. -/
def decode : Code → Except DecodeError Instr
  | .req10 w => .ok (decodeReq w)
  | .bus9 w => .ok (decodeBus w)
  | .nib5 w => decodeNib w

/-- A number as a word of a form, if it fits the form's width. -/
def Form.code (f : Form) (n : Nat) : Except DecodeError Code :=
  match f with
  | .req10 => if n < 1024 then .ok (.req10 (BitVec.ofNat 10 n)) else .error .wordTooWide
  | .bus9 => if n < 512 then .ok (.bus9 (BitVec.ofNat 9 n)) else .error .wordTooWide
  | .nib5 => if n < 32 then .ok (.nib5 (BitVec.ofNat 5 n)) else .error .wordTooWide

/-- The nine bits {rs, b} of a bus value (R68). -/
def busWord (rs : Bool) (b : Byte) : BitVec 9 := BitVec.ofBool rs ++ b

/-- The word of an instruction, from the encoding column of the opcode table. -/
def encode : Instr → Code
  | .init => .req10 0b1000000000
  | .reservedReq w => .req10 (1#1 ++ w)
  | .cmd b => .req10 (0b00#2 ++ b)
  | .data b => .req10 (0b01#2 ++ b)
  | .functionSet => .bus9 0b000101000
  | .functionSetOther x => .bus9 (0b0001#4 ++ x)
  | .cursorShiftLeft => .bus9 0b000010000
  | .cursorShiftRight => .bus9 0b000010100
  | .displayShiftLeft => .bus9 0b000011000
  | .displayShiftRight => .bus9 0b000011100
  | .shiftOther x => .bus9 (0b00001#5 ++ x)
  | .displayControl d c k => .bus9 (0b000001#6 ++ BitVec.ofBool d ++ BitVec.ofBool c ++ BitVec.ofBool k)
  | .entryModeSet => .bus9 0b000000110
  | .entryModeOther x => .bus9 (0b0000001#7 ++ x)
  | .instr02Or03 x => .bus9 (0b00000001#8 ++ BitVec.ofBool x)
  | .clearDisplay => .bus9 0b000000001
  | .instr00 => .bus9 0b000000000
  | .setCgramAddr a => .bus9 (0b001#3 ++ a)
  | .setDdramAddr a => .bus9 (0b01#2 ++ a)
  | .writeData b => .bus9 (1#1 ++ b)
  | .bootFuncset8bit => .nib5 0b00011
  | .switch4bit => .nib5 0b00010

/-- The form in which a number of nbits bits is read.  10, 9 and 5 are the exact widths of R65; 8 is a NIB5 value in whole
bytes.  16 is a REQ10 or a BUS9 value in whole bytes, and the number alone does not say which.  DESIGN CHOICE (log entry 16): a
BUS9 value below 0x100, a REQ10 value from there on.  Elsewhere that is the form of the matching row whose mask has the most 1
bits, R73's rule carried across the two forms; for 0x80-0xFF the rows SET_DDRAM_ADDR and CMD tie, and BUS9 is the model's own
choice. -/
def tableForm (nbits w : Nat) : Option Form :=
  match nbits with
  | 10 => some .req10
  | 9 => some .bus9
  | 5 => some .nib5
  | 8 => some .nib5
  | 16 => if w < 0x100 then some .bus9 else some .req10
  | _ => none

/-- The word a number of nbits bits stands for in its form, if it has one. -/
def tableCode (nbits w : Nat) : Option Code :=
  match tableForm nbits w with
  | none => none
  | some f => (f.code w).toOption

/-- The instruction the decoder reads from the table word w of nbits bits; none where it is rejected. -/
def decodeTableWord (nbits w : Nat) : Option Instr :=
  match tableCode nbits w with
  | none => none
  | some c => (decode c).toOption

end Sys2Proof
end

