-- ==== Sys2Proof/Config.lean ====
section
/-! DEFINITION. What is fixed when the block is built (spec/10_state.md R26), and the values the spec leaves open.

The configuration itself is plain data, held in State: every statement about a state is a statement about every
configuration (log entry 5).  The open values are constants with no body: nothing can be proved about what they are. -/

namespace Sys2Proof

/-- The receiver's interface framing, IFMODE (R30): 8-bit mode, or 4-bit mode expecting a high or a low nibble. -/
inductive Framing where
  | m8
  | m4h
  | m4l
  deriving DecidableEq, Repr, Inhabited

/-- SETTLE, the settle class of a transfer (R16, R103). -/
inductive SettleClass where
  | short
  | long
  | data
  deriving DecidableEq, Repr, Inhabited

/-- P_PINMAP (R7, R26): the physical output line of each of the six logical signals. -/
structure PinMap where
  rs : Nat
  e : Nat
  d0 : Nat
  d1 : Nat
  d2 : Nat
  d3 : Nat
  deriving DecidableEq, Repr

/-- The block's configuration (R6, R7, R26).  Durations are in nanoseconds (R12). -/
structure Config where
  tPowerup : Nat
  tBoot1 : Nat
  tBoot2 : Nat
  tBoot3 : Nat
  tSwitch : Nat
  tAs : Nat
  tDsu : Nat
  tPw : Nat
  tH : Nat
  tExec : Nat
  tData : Nat
  tClear : Nat
  longSet : List Byte
  pinMap : PinMap
  deriving DecidableEq, Repr

/-- The defaults of R6 and R7.  P_PINMAP has no default in the spec: DESIGN CHOICE, unsafe where a claim rests on the
line numbers (log entry 4). -/
def Config.initial : Config where
  tPowerup := 50000000
  tBoot1 := 4100000
  tBoot2 := 100000
  tBoot3 := 100000
  tSwitch := 100000
  tAs := 40
  tDsu := 0
  tPw := 450
  tH := 50
  tExec := 37000
  tData := 37000
  tClear := 1520000
  longSet := [0x01, 0x02, 0x03]
  pinMap := { rs := 0, e := 1, d0 := 2, d1 := 3, d2 := 4, d3 := 5 }

/-- A drawn duration in nanoseconds, without bound: how long a micro-operation takes, and how much longer than asked a
wait takes (R87).  Free value, safe (log entry 1). -/
opaque Config.freeDelay : Nat → Nat

/-- A drawn framing: what an unknown IFMODE is found to be at a latch (R153).  Free value, safe (log entry 8). -/
opaque Config.freeFraming : Nat → Framing

/-- A drawn nibble: an unknown NIBHI at a latch (R153), the undriven low half in 8-bit mode (R154), and what LINE_D holds
when a reset leaves it unspecified (R35).  Free value, safe (log entries 3 and 8). -/
opaque Config.freeNibble : Nat → Nibble

/-- A drawn level: what LINE_RS, LINE_E and REQ_RS hold when a reset leaves them unspecified (R35).  Free value, safe
(log entry 3). -/
opaque Config.freeBit : Nat → Bool

/-- A drawn byte: what REQ_BYTE holds when a reset leaves it unspecified (R35).  Free value, safe (log entry 3). -/
opaque Config.freeByte : Nat → Byte

/-- A drawn settle class: what SETTLE holds when a reset leaves it unspecified (R35).  Free value, safe (log entry 3). -/
opaque Config.freeSettle : Nat → SettleClass

/-- R_EXEC(rs, b): the receiver's execution time of a transfer, a parameter no document gives (R173, D39; log entry 6).
The assumption A_SETTLE_SUFFICES about it is Sys2Proof.Safety.SettleSuffices, a hypothesis and not part of the model. -/
opaque Config.rExec : Bool → Byte → Nat

/-- P_BLANK: the character code a BLANK cell stands for (R8, D33; log entry 6). -/
opaque Config.blankCode : Byte

/-- P_INT_WIDTH: the bit width of the signed integer displayInteger takes (R8, D26; log entry 6). -/
opaque Config.intWidth : Nat

end Sys2Proof
end

