-- ==== Sys2Proof/Machine/State.lean ====
section
/-! DEFINITION. The machine's state as plain data: the block (spec/10_state.md R16-R28), its ports, the receiver (R30), the
observation (40_pin_timing R86, 20_memory R47), and the environment's moves to come (60_exceptions R197, R198). -/

namespace Sys2Proof.Machine

/-- FSM (R18). -/
inductive Fsm where
  | uninit
  | boot8
  | boot4
  | ready
  | fault
  deriving DecidableEq, Repr

/-- FCODE (R20). -/
inductive FaultCode where
  | none
  | notReady
  | reinit
  | reservedReq
  deriving DecidableEq, Repr

/-- SCHED, the schedule the block is in (R17). -/
inductive Sched where
  | none
  | init
  | tx
  deriving DecidableEq, Repr

/-- TARGET: which memory data writes go to (R30). -/
inductive Target where
  | dd
  | cg
  deriving DecidableEq, Repr

/-- ENTRY: the only entry mode the document names, "auto-increment cursor, no shift" (R30). -/
inductive EntryMode where
  | incNoShift
  deriving DecidableEq, Repr

/-- FUNC: the only function set the document names, "4-bit interface, 2-line display, 5×8 dot font" (R30). -/
inductive FuncSet where
  | f28
  deriving DecidableEq, Repr

/-- What every DDRAM cell that no entry lists holds: ⊥ after a reset, BLANK after a clear (R30, R33, R160). -/
inductive CellFill where
  | unknown
  | blank
  deriving DecidableEq, Repr

/-- The receiver's two memories (R45).  `dd` and `cg` list the bytes written, at strictly rising addresses; an unlisted
DDRAM cell holds `ddFill`, an unlisted CGRAM byte is ⊥ (log entry 7). -/
structure Memory where
  ddFill : CellFill
  dd : List Host.Cell
  cg : List Host.Cell
  deriving DecidableEq, Repr

/-- The receiver (R30).  A component that is `none` holds the spec's mark ⊥, unknown. -/
structure Receiver where
  ifmode : Option Framing
  nibhi : Option Nibble
  target : Option Target
  ac : Option (BitVec 7)
  mem : Memory
  disp : Option Bool
  cur : Option Bool
  blink : Option Bool
  entry : Option EntryMode
  func : Option FuncSet
  shift : Option Int
  /-- the earliest time the receiver is ready for the next transfer, in nanoseconds (R30, R156) -/
  xend : Nat
  deriving DecidableEq, Repr

/-- A pin-trace event (R86). -/
inductive Event where
  | cfg
  | lineRs (v : Bool)
  | dataLines (n : Nibble)
  | lineE (v : Bool)
  | wait (t d : Nat)
  | state (f : Fsm)
  deriving DecidableEq, Repr

/-- A move of the environment, the host table's liberties (R197). -/
inductive HostMove where
  /-- nothing changes -/
  | idle
  /-- drive rst to a level -/
  | setRst (level : Bool)
  /-- apply power to the receiver -/
  | applyPower
  /-- drive req_valid = 1 and req_word = w, in place of whatever stood at the port -/
  | drive (w : ReqWord)
  /-- drive req_valid = 0 -/
  | withdraw
  deriving DecidableEq, Repr

/-- Everything the spec gives the machine, and the environment's moves to come.  INVENTORY.md, '## State', names the rule
of each field. -/
structure State where
  /-- the configuration: fixed for the session, kept by reset (R26) -/
  cfg : Config
  fsm : Fsm
  sched : Sched
  step : Nat
  fcode : FaultCode
  reqRs : Bool
  reqByte : Byte
  settle : SettleClass
  lineRs : Bool
  lineE : Bool
  lineD : Nibble
  oe : Bool
  /-- WAIT_REM, nanoseconds still owed by the wait in progress (R22) -/
  waitRem : Nat
  /-- the model's own: when the wait in progress began, if one is (log entry 9) -/
  waitFrom : Option Nat
  rst : Bool
  reqValid : Bool
  reqWord : ReqWord
  rx : Receiver
  /-- τ, nanoseconds since the run's fall of rst (R86; log entry 10) -/
  now : Nat
  /-- when receiver power was applied (R33, R173; log entry 12) -/
  powerUp : Nat
  trace : List (Nat × Event)
  latched : List (Bool × Nibble)
  /-- the request words the client has yet to present (R135, R198; log entry 11) -/
  client : List ReqWord
  /-- the client has presented a word and waits until req_ready is 1 again (R135; log entry 11) -/
  emitting : Bool
  /-- the environment's coming moves, one for each turn of the block (R197; log entry 11) -/
  host : List HostMove
  /-- the model's own: how many free values have been taken (log entry 1) -/
  draws : Nat
  deriving DecidableEq, Repr

/-- Why the machine stops with a fault.  None is the spec's FAULT, which is a next state (R180); no run reaches either. -/
inductive Fault where
  /-- STEP is not below the length of the current schedule (R17 says it always is).  Raised by the block's turn; safe. -/
  | stepBeyondSchedule
  /-- A bus byte was read as a request or as a bootstrap nibble.  Raised by the receiver's dispatch; no word decodes so;
  safe. -/
  | notABusByte
  deriving DecidableEq, Repr

/-- Why the model gives no meaning: the spec's own `refuse` (00_scope R11). -/
inductive Refusal where
  /-- The instruction has no meaning in this model.  Raised by exec's arm of that instruction; safe. -/
  | notModelled (mnemonic : String)
  /-- The configuration is below a floor, its pin map not injective, or its long set lacks 0x01: it has no run (R9).
  Raised by every step; safe. -/
  | illegalConfig
  /-- A transfer was formed before the receiver finished the last one, refuse(receiver busy) (R156, R173).  Raised by
  every bus instruction; safe. -/
  | receiverBusy
  /-- A data write with TARGET or AC unknown, refuse(unknown address) (R170).  Raised by WRITE_DATA; safe. -/
  | unknownAddress
  /-- A data write to a DDRAM address outside the 16x2 positions (R170).  Raised by WRITE_DATA; safe. -/
  | outsidePositions
  /-- Receiver power applied after an INIT was accepted: the host broke its duty (R197).  Raised by the host's move;
  safe. -/
  | powerAfterInit
  deriving DecidableEq, Repr

/-- How a step or a meaning ends. -/
abbrev Outcome := Host.Outcome State Fault Refusal

/-- How long after power-up the receiver is ready, "≥15 ms after power-up" (R33). -/
def powerUpTime : Nat := 15000000

/-- Memory of which nothing is known: every DDRAM cell and every CGRAM byte ⊥ (R33). -/
def Memory.unknown : Memory where
  ddFill := .unknown
  dd := []
  cg := []

/-- The receiver at the block's reset: every component ⊥, XEND 15 ms after the power-up time p (R33). -/
def Receiver.unknown (p : Nat) : Receiver where
  ifmode := none
  nibhi := none
  target := none
  ac := none
  mem := .unknown
  disp := none
  cur := none
  blink := none
  entry := none
  func := none
  shift := none
  xend := p + powerUpTime

/-- The state in which rst falls (R35): FSM UNINIT, no schedule, no fault, the lines undriven, no wait, the receiver unknown.
REQ_RS, REQ_BYTE, SETTLE and the line registers are unspecified there: DESIGN CHOICE 0 and SHORT (log entry 2).  Power was
applied at τ = 0 (log entry 12).  The port is idle and no move of client or host is pending (log entry 25). -/
def State.reset : State where
  cfg := Config.initial
  fsm := .uninit
  sched := .none
  step := 0
  fcode := .none
  reqRs := false
  reqByte := 0
  settle := .short
  lineRs := false
  lineE := false
  lineD := 0
  oe := false
  waitRem := 0
  waitFrom := none
  rst := false
  reqValid := false
  reqWord := 0
  rx := Receiver.unknown 0
  now := 0
  powerUp := 0
  trace := []
  latched := []
  client := []
  emitting := false
  host := []
  draws := 0

end Sys2Proof.Machine
end

