-- ==== Sys2Proof/Machine/Flags.lean ====
section
/-! DEFINITION. The status flags and output ports (spec/10_state.md R21, R23-R25): functions of the state, none written as a
side effect of a computation. -/

namespace Sys2Proof.Machine

/-- req_ready = (SCHED = NONE) ∧ (FSM ≠ FAULT) ∧ (rst = 0) (R24). -/
def State.reqReady (s : State) : Bool := s.sched = .none && s.fsm != .fault && !s.rst

/-- A request is accepted exactly when req_valid = 1 and req_ready = 1 (R24). -/
def State.accepts (s : State) : Bool := s.reqValid && s.reqReady

/-- The `state` output: UNINIT=0, BOOT8=1, BOOT4=2, READY=3, FAULT=7 (R23). -/
def State.stateOut (s : State) : BitVec 3 :=
  match s.fsm with
  | .uninit => 0
  | .boot8 => 1
  | .boot4 => 2
  | .ready => 3
  | .fault => 7

/-- The `fault` output (R23). -/
def State.faultOut (s : State) : Bool := s.fsm = .fault

/-- The `fcode` output: NONE=0, NOT_READY=1, REINIT=2, RESERVED_REQ=3 (R23). -/
def State.fcodeOut (s : State) : BitVec 2 :=
  match s.fcode with
  | .none => 0
  | .notReady => 1
  | .reinit => 2
  | .reservedReq => 3

/-- The level a physical output line carries, by P_PINMAP; none while the block does not drive it: OE = 0, or a line of no
signal (R21, R23, R46). -/
def State.pinLevel (s : State) (line : Nat) : Option Bool :=
  if !s.oe then none
  else if line = s.cfg.pinMap.rs then some s.lineRs
  else if line = s.cfg.pinMap.e then some s.lineE
  else if line = s.cfg.pinMap.d0 then some (s.lineD.getLsbD 0)
  else if line = s.cfg.pinMap.d1 then some (s.lineD.getLsbD 1)
  else if line = s.cfg.pinMap.d2 then some (s.lineD.getLsbD 2)
  else if line = s.cfg.pinMap.d3 then some (s.lineD.getLsbD 3)
  else none

end Sys2Proof.Machine
end

