-- ==== Sys2Proof/Machine/Operands.lean ====
section
/-! DEFINITION. Operand forms: the halves of a byte, the settle class, the micro-operations with their operands
(spec/40_pin_timing.md R85-R95), and how each operand is read from the state. -/

namespace Sys2Proof.Machine

/-- hi(b) = b[7:4] (R10, R107). -/
def hi (b : Byte) : Nibble := b.extractLsb' 4 4

/-- lo(b) = b[3:0] (R10, R107). -/
def lo (b : Byte) : Nibble := b.extractLsb' 0 4

/-- {n1, n2}: the byte two latched nibbles form, the first as the high half (R49, R68). -/
def byteOf (n1 n2 : Nibble) : Byte := n1 ++ n2

/-- settleOf(rs, b) (R103). -/
def settleOf (longSet : List Byte) (rs : Bool) (b : Byte) : SettleClass :=
  if rs then .data else if longSet.contains b then .long else .short

/-- The duration of a settle class (R103). -/
def settleTime (c : Config) : SettleClass → Nat
  | .short => c.tExec
  | .long => c.tClear
  | .data => c.tData

/-- SET_RS's operand: a constant level, or the register REQ_RS (R89). -/
inductive RsOperand where
  | level (v : Bool)
  | reqRs
  deriving DecidableEq, Repr

/-- SET_D's operand: a constant nibble, or a half of REQ_BYTE (R90). -/
inductive NibbleOperand where
  | const (n : Nibble)
  | hiReq
  | loReq
  deriving DecidableEq, Repr

/-- WAIT's operand: a timing parameter of R6, or the settle duration of the SETTLE register (R93). -/
inductive WaitOperand where
  | powerup
  | boot1
  | boot2
  | boot3
  | switch
  | rsSetup
  | dataSetup
  | pulseWidth
  | hold
  | settle
  deriving DecidableEq, Repr

/-- The micro-operations (R85). -/
inductive Micro where
  | cfg
  | setRs (v : RsOperand)
  | setD (n : NibbleOperand)
  | eHi
  | eLo
  | wait (t : WaitOperand)
  | load (rs : Bool) (b : Byte)
  | setFsm (f : Fsm)
  deriving DecidableEq, Repr

/-- The level a SET_RS puts on RS (R89). -/
def RsOperand.value (s : State) : RsOperand → Bool
  | .level v => v
  | .reqRs => s.reqRs

/-- The nibble a SET_D puts on the data lines (R90). -/
def NibbleOperand.value (s : State) : NibbleOperand → Nibble
  | .const n => n
  | .hiReq => hi s.reqByte
  | .loReq => lo s.reqByte

/-- The minimum duration of a WAIT (R93). -/
def WaitOperand.value (s : State) : WaitOperand → Nat
  | .powerup => s.cfg.tPowerup
  | .boot1 => s.cfg.tBoot1
  | .boot2 => s.cfg.tBoot2
  | .boot3 => s.cfg.tBoot3
  | .switch => s.cfg.tSwitch
  | .rsSetup => s.cfg.tAs
  | .dataSetup => s.cfg.tDsu
  | .pulseWidth => s.cfg.tPw
  | .hold => s.cfg.tH
  | .settle => settleTime s.cfg s.settle

end Sys2Proof.Machine
end

