-- ==== Sys2Proof/Machine/Schedule.lean ====
section
/-! DEFINITION. The block's two fixed schedules (spec/41_nibble_transfer.md R102, 42_controller_fsm.md R117), built from the
enable pulse (R96) and the single-nibble groups (R119, R120). -/

namespace Sys2Proof.Machine

/-- The enable pulse PULSE (R96). -/
def pulse : List Micro := [.eHi, .wait .pulseWidth, .eLo, .wait .hold]

/-- A nibble presented and latched: SET_D(n); WAIT(P_T_DSU); PULSE (R96). -/
def present (n : NibbleOperand) : List Micro := [.setD n, .wait .dataSetup] ++ pulse

/-- The TX schedule, fifteen steps (R102). -/
def txSchedule : List Micro :=
  [.setRs .reqRs, .wait .rsSetup] ++ present .hiReq ++ present .loReq ++ [.wait .settle]

/-- BOOT_FUNCSET_8BIT with the wait that follows its pulse (R119, R121). -/
def bootGroup (w : WaitOperand) : List Micro := present (.const 0x3) ++ [.wait w]

/-- SWITCH_4BIT (R120). -/
def switchGroup : List Micro := [.setFsm .boot4] ++ present (.const 0x2) ++ [.wait .switch]

/-- One initialization transfer: LOAD(0, b), then the TX steps in place (R117). -/
def initTransfer (b : Byte) : List Micro := .load false b :: txSchedule

/-- The INIT schedule, 114 steps (R117). -/
def initSchedule : List Micro :=
  [.cfg, .wait .powerup, .setRs (.level false), .wait .rsSetup]
    ++ bootGroup .boot1 ++ bootGroup .boot2 ++ bootGroup .boot3 ++ switchGroup
    ++ initTransfer 0x28 ++ initTransfer 0x08 ++ initTransfer 0x01 ++ initTransfer 0x06 ++ initTransfer 0x0C
    ++ [.setFsm .ready]

/-- The steps of a schedule (R17). -/
def Sched.steps : Sched → List Micro
  | .none => []
  | .init => initSchedule
  | .tx => txSchedule

/-- The wait after a bootstrap pulse: P_T_BOOT1 after pulse 1 (INIT steps 4-10), P_T_BOOT2 after pulse 2 (11-17), P_T_BOOT3
after pulse 3 (18-24) (R121).  The pulse is told from STEP, the only register that counts them; no other STEP ever runs one
(R76; log entry 21). -/
def bootWait (step : Nat) : WaitOperand :=
  if step < 11 then .boot1 else if step < 18 then .boot2 else .boot3

end Sys2Proof.Machine
end

