-- ==== Sys2Proof/Machine/Ops.lean ====
section
/-! DEFINITION. The named operations over the state: sequencing, time and trace, the receiver's memories, the fault entry and
the reset that alone leaves it, starting a schedule, the wait, and the environment's turn. -/

namespace Sys2Proof.Machine

/-- Go on with a next state; a fault or a refusal ends the step. -/
def andThen {α : Type} (o : Host.Outcome α Fault Refusal) (f : α → Outcome) : Outcome :=
  match o with
  | .next a => f a
  | .fault r => .fault r
  | .refused r => .refused r

/-- The next state of an outcome, if it is one. -/
def nextState? (o : Outcome) : Option State :=
  match o with
  | .next s => some s
  | .fault _ => none
  | .refused _ => none

/-! ### Configuration -/

/-- P_PINMAP is injective (R7, R9). -/
def PinMap.injective (p : PinMap) : Bool := decide [p.rs, p.e, p.d0, p.d1, p.d2, p.d3].Nodup

/-- The legality check: every timing parameter at or above its floor, the pin map injective, the long set holding 0x01
(R6, R9).  P_T_SWITCH's floor is P_T_EXEC. -/
def configLegal (c : Config) : Bool :=
  decide (15000000 ≤ c.tPowerup) && decide (4100000 ≤ c.tBoot1) && decide (100000 ≤ c.tBoot2)
    && decide (100000 ≤ c.tBoot3) && decide (c.tExec ≤ c.tSwitch) && decide (40 ≤ c.tAs)
    && decide (450 ≤ c.tPw) && decide (50 ≤ c.tH) && decide (37000 ≤ c.tExec) && decide (37000 ≤ c.tData)
    && decide (1520000 ≤ c.tClear) && PinMap.injective c.pinMap && c.longSet.contains 0x01

/-! ### Time and the pin trace -/

/-- A duration δ ≥ 0 passes, a draw (R87). -/
def elapse (s : State) : State :=
  { s with now := s.now + Config.freeDelay s.draws, draws := s.draws + 1 }

/-- Append an event at the present time to the pin trace (R86). -/
def emit (e : Event) (s : State) : State :=
  { s with trace := s.trace ++ [(s.now, e)] }

/-- The pc after step k of a schedule: k + 1, or (NONE, 0) past the last step (R17). -/
def nextPc (c : Sched) (k : Nat) : Sched × Nat :=
  if k + 1 < c.steps.length then (c, k + 1) else (.none, 0)

/-- After a micro-operation STEP advances by one; past the last step the schedule ends (R17). -/
def advance (s : State) : State :=
  { s with sched := (nextPc s.sched s.step).1, step := (nextPc s.sched s.step).2 }

/-! ### The receiver's memories -/

/-- The byte listed at an address, if one is. -/
def readCells (a : Nat) : List Host.Cell → Option Byte
  | [] => none
  | (k, v) :: rest => if k = a then some v else readCells a rest

/-- List a byte at an address, keeping the addresses strictly rising. -/
def writeCells (a : Nat) (v : Byte) : List Host.Cell → List Host.Cell
  | [] => [(a, v)]
  | (k, x) :: rest =>
    if a < k then (a, v) :: (k, x) :: rest
    else if a = k then (a, v) :: rest
    else (k, x) :: writeCells a v rest

/-- Addresses strictly rising, from lo on and below hi. -/
def risingCells (lo hi : Nat) : List Host.Cell → Bool
  | [] => true
  | (k, _) :: rest => decide (lo ≤ k) && decide (k < hi) && risingCells (k + 1) hi rest

/-- The canonical form: both lists strictly rising, DDRAM addresses below 128 and CGRAM addresses below 64 (R30).  No entry
equals what an unlisted address reads as, since that is a mark and every entry a byte. -/
def Memory.wf (m : Memory) : Bool := risingCells 0 128 m.dd && risingCells 0 64 m.cg

/-- What a DDRAM cell holds: ⊥, the mark BLANK, or a byte (R30). -/
inductive DdCell where
  | unknown
  | blank
  | byte (b : Byte)
  deriving DecidableEq, Repr

/-- What an unlisted DDRAM cell reads as (R33, R160; log entry 7). -/
def CellFill.cell : CellFill → DdCell
  | .unknown => .unknown
  | .blank => .blank

/-- DDRAM[a] (R11 MemRead; used by the observation and by claims, by no rule of the block). -/
def Memory.ddAt (m : Memory) (a : BitVec 7) : DdCell :=
  match readCells a.toNat m.dd with
  | some b => .byte b
  | none => m.ddFill.cell

/-- CGRAM[a], none while it is ⊥ (R11 MemRead). -/
def Memory.cgAt (m : Memory) (a : BitVec 6) : Option Byte := readCells a.toNat m.cg

/-- MemWrite(DDRAM:a, 1, b) (R11). -/
def Memory.writeDd (m : Memory) (a : BitVec 7) (b : Byte) : Memory :=
  { m with dd := writeCells a.toNat b m.dd }

/-- MemWrite(CGRAM:a, 1, b) (R11). -/
def Memory.writeCg (m : Memory) (a : BitVec 6) (b : Byte) : Memory :=
  { m with cg := writeCells a.toNat b m.cg }

/-- MemWrite(DDRAM:a, 1, BLANK) at every address a (R160). -/
def Memory.clearDd (m : Memory) : Memory := { m with ddFill := .blank, dd := [] }

/-! ### Fault entry and reset -/

/-- raise Fault(code) (R180): FSM FAULT, FCODE the code, pc (NONE, 0), event State(FAULT).  No line, no data-path register
and no receiver component changes; nothing is saved and no handler runs. -/
def takeFault (code : FaultCode) (s : State) : State :=
  { s with
    fsm := .fault, fcode := code, sched := .none, step := 0
    trace := s.trace ++ [(s.now, .state .fault)] }

/-- The block while rst = 1, the only way out of FAULT (R189, R200): every register at its value of R35, the lines released,
any micro-operation, wait or schedule dropped with no further event, and the receiver all ⊥ (R174, R201).  The registers
R35 leaves unspecified take free values (log entry 3).  Configuration, time, trace and environment stay (log entry 10). -/
def holdReset (s : State) : State :=
  { s with
    fsm := .uninit, sched := .none, step := 0, fcode := .none
    reqRs := Config.freeBit s.draws
    reqByte := Config.freeByte s.draws
    settle := Config.freeSettle s.draws
    lineRs := Config.freeBit (s.draws + 1)
    lineE := Config.freeBit (s.draws + 2)
    lineD := Config.freeNibble s.draws
    oe := false, waitRem := 0, waitFrom := none
    rx := Receiver.unknown s.powerUp
    now := s.now + Config.freeDelay s.draws
    draws := s.draws + 3 }

/-! ### Starting a schedule -/

/-- Acceptance of a byte transfer: the data-path registers are written and the TX schedule starts (R100, R101). -/
def startTx (rs : Bool) (b : Byte) (s : State) : State :=
  { s with
    reqRs := rs, reqByte := b, settle := settleOf s.cfg.longSet rs b
    sched := .tx, step := 0 }

/-- Acceptance of INIT: FSM BOOT8, event State(BOOT8), the INIT schedule starts (R115). -/
def startInit (s : State) : State :=
  { s with
    fsm := .boot8, sched := .init, step := 0
    trace := s.trace ++ [(s.now, .state .boot8)] }

/-! ### The wait -/

/-- A WAIT of at least t begins: WAIT_REM is set to t and counts down with the time that passes, a draw (R22, R93; log entry
9). -/
def waitBegin (t : Nat) (s : State) : State :=
  { s with
    waitFrom := some s.now
    waitRem := t - Config.freeDelay s.draws
    now := s.now + Config.freeDelay s.draws
    draws := s.draws + 1 }

/-- The WAIT ends, at some moment at or after WAIT_REM reaches 0 (R22, R93): event Wait(t, d) at the time it began, with d
the whole duration taken. -/
def waitEnd (t : Nat) (s : State) : State :=
  { s with
    trace := s.trace ++
      [(s.waitFrom.getD s.now,
        .wait t (s.now + s.waitRem + Config.freeDelay s.draws - s.waitFrom.getD s.now))]
    now := s.now + s.waitRem + Config.freeDelay s.draws
    waitRem := 0, waitFrom := none
    draws := s.draws + 1 }

/-! ### The environment's turn -/

/-- INIT was accepted since the last reset; a fault entered from UNINIT does not count (R197). -/
def initAccepted (s : State) : Bool :=
  match s.fsm with
  | .uninit => false
  | .fault => s.oe
  | .boot8 | .boot4 | .ready => true

/-- One move of the host (R197).  Power may be applied up to INIT acceptance; XEND is then 15 ms later (R33, R173). -/
def hostMove (m : HostMove) (s : State) : Outcome :=
  match m with
  | .idle => .next s
  | .setRst level => .next { s with rst := level }
  | .applyPower =>
    if initAccepted s then .refused .powerAfterInit
    else .next { s with powerUp := s.now, rx := Receiver.unknown s.now }
  | .drive w => .next { s with reqValid := true, reqWord := w }
  | .withdraw => .next { s with reqValid := false }

/-- An emit of the client's is over once req_ready is 1 (R135). -/
def endEmit (s : State) : State := { s with emitting := s.emitting && !s.reqReady }

/-- The client's turn.  While req_ready = 0 its emit waits and nothing new is presented; once req_ready is 1 again that emit
is over, and the next request, if there is one and the port is free, is presented (R135, R198: "each as soon as req_ready
is 1"; log entry 11). -/
def clientTurn (s : State) : State :=
  match s.reqReady, s.reqValid, s.client with
  | true, false, w :: rest => { s with reqValid := true, reqWord := w, client := rest, emitting := true }
  | _, _, _ => endEmit s

/-- The environment's turn before a turn of the block: the host's next move, then the client.  An emit that is over by now stays
over whatever the host does (R135). -/
def envTurn (s : State) : Outcome :=
  match s.host with
  | [] => .next (clientTurn s)
  | m :: rest => andThen (hostMove m { endEmit s with host := rest }) fun t => .next (clientTurn t)

end Sys2Proof.Machine
end

