-- ==== Sys2Proof/Machine/Receiver.lean ====
section
/-! DEFINITION. The receiver (spec/44_instruction_bytes.md): the effect of every bus byte (R157-R172, R176), the execution of
one transfer (R156), and the latching of nibbles on the falling edge of E (R153, R154). -/

namespace Sys2Proof.Machine

/-- VIS, the DDRAM addresses of the 16x2 positions (R163). -/
def inVis (a : BitVec 7) : Bool :=
  decide (a.toNat ≤ 0x0F) || (decide (0x40 ≤ a.toNat) && decide (a.toNat ≤ 0x4F))

/-- column(a) = a mod 0x40 (R163). -/
def column (a : BitVec 7) : Nat := a.toNat % 0x40

/-- unknownEffect (R176): an unlisted byte leaves TARGET, AC, DISP, CUR, BLINK, ENTRY, SHIFT and FUNC unknown; the memories and
IFMODE stay. -/
def unknownEffect (r : Receiver) : Receiver :=
  { r with
    target := none, ac := none, disp := none, cur := none, blink := none
    entry := none, shift := none, func := none }

/-- The function-set bytes other than 0x28: IFMODE by b[4], then unknownEffect (R158). -/
def functionSetOtherEffect (x : BitVec 5) (r : Receiver) : Receiver :=
  unknownEffect { r with ifmode := some (if x.getLsbD 4 then .m8 else .m4h) }

/-- AC after a cursor shift: moved where the condition of R163 or R164 holds, else ⊥.  An unknown TARGET or AC meets neither
(log entry 15). -/
def shiftedAc (ok : BitVec 7 → Bool) (move : BitVec 7 → BitVec 7) (r : Receiver) : Option (BitVec 7) :=
  match r.target, r.ac with
  | some .dd, some a => if inVis a && ok a then some (move a) else none
  | _, _ => none

/-- A data write to DDRAM at address a (R170). -/
def writeDdEffect (a : BitVec 7) (b : Byte) (r : Receiver) : Host.Outcome Receiver Fault Refusal :=
  if inVis a then
    .next { r with
      mem := r.mem.writeDd a b
      ac := if r.entry = some .incNoShift then some (a + 1) else none }
  else .refused .outsidePositions

/-- A data write to CGRAM with AC = a (R170): the byte at a[5:0]. -/
def writeCgEffect (a : BitVec 7) (b : Byte) (r : Receiver) : Receiver :=
  { r with
    mem := r.mem.writeCg (a.extractLsb' 0 6) b
    ac := if a.toNat < 0x3F then some (a + 1) else none }

/-- WRITE_DATA's effect, by TARGET and AC (R170). -/
def writeDataEffect (b : Byte) (r : Receiver) : Host.Outcome Receiver Fault Refusal :=
  match r.target, r.ac with
  | some .dd, some a => writeDdEffect a b r
  | some .cg, some a => .next (writeCgEffect a b r)
  | _, _ => .refused .unknownAddress

/-- The execution of one transfer formed now (R156): refused while the receiver is busy; afterwards XEND is R_EXEC later. -/
def rxTransfer (rs : Bool) (b : Byte) (effect : Receiver → Host.Outcome Receiver Fault Refusal) (s : State) :
    Outcome :=
  if s.now < s.rx.xend then .refused .receiverBusy
  else andThen (effect s.rx) fun r => .next { s with rx := { r with xend := s.now + Config.rExec rs b } }

/-- FUNCTION_SET (R157). -/
def execFunctionSet (s : State) : Outcome :=
  rxTransfer false 0x28 (fun r => .next { r with ifmode := some .m4h, func := some .f28 }) s

/-- FUNCTION_SET_OTHER (R158). -/
def execFunctionSetOther (x : BitVec 5) (s : State) : Outcome :=
  rxTransfer false (0b001#3 ++ x) (fun r => .next (functionSetOtherEffect x r)) s

/-- CURSOR_SHIFT_LEFT (R163). -/
def execCursorShiftLeft (s : State) : Outcome :=
  rxTransfer false 0x10 (fun r => .next { r with ac := shiftedAc (fun a => decide (0 < column a)) (· - 1) r }) s

/-- CURSOR_SHIFT_RIGHT (R164). -/
def execCursorShiftRight (s : State) : Outcome :=
  rxTransfer false 0x14 (fun r => .next { r with ac := shiftedAc (fun a => decide (column a < 15)) (· + 1) r }) s

/-- DISPLAY_SHIFT_LEFT (R165): ⊥ stays ⊥. -/
def execDisplayShiftLeft (s : State) : Outcome :=
  rxTransfer false 0x18 (fun r => .next { r with shift := r.shift.map (· + 1) }) s

/-- DISPLAY_SHIFT_RIGHT (R166): ⊥ stays ⊥. -/
def execDisplayShiftRight (s : State) : Outcome :=
  rxTransfer false 0x1C (fun r => .next { r with shift := r.shift.map (· - 1) }) s

/-- SHIFT_OTHER (R167). -/
def execShiftOther (x : BitVec 4) (s : State) : Outcome :=
  rxTransfer false (0b0001#4 ++ x) (fun r => .next (unknownEffect r)) s

/-- DISPLAY_CONTROL (R159). -/
def execDisplayControl (d c k : Bool) (s : State) : Outcome :=
  rxTransfer false (0b00001#5 ++ BitVec.ofBool d ++ BitVec.ofBool c ++ BitVec.ofBool k)
    (fun r => .next { r with disp := some d, cur := some c, blink := some k }) s

/-- ENTRY_MODE_SET (R161). -/
def execEntryModeSet (s : State) : Outcome :=
  rxTransfer false 0x06 (fun r => .next { r with entry := some .incNoShift }) s

/-- ENTRY_MODE_OTHER (R162). -/
def execEntryModeOther (x : BitVec 2) (s : State) : Outcome :=
  rxTransfer false (0b000001#6 ++ x) (fun r => .next (unknownEffect r)) s

/-- INSTR_0x02_0x03 (R172). -/
def execInstr02Or03 (x : Bool) (s : State) : Outcome :=
  rxTransfer false (0b0000001#7 ++ BitVec.ofBool x) (fun r => .next (unknownEffect r)) s

/-- CLEAR_DISPLAY (R160): ENTRY, DISP, CUR, BLINK, FUNC and CGRAM stay. -/
def execClearDisplay (s : State) : Outcome :=
  rxTransfer false 0x01
    (fun r => .next { r with mem := r.mem.clearDd, target := some .dd, ac := some 0, shift := some 0 }) s

/-- INSTR_0x00 (R171). -/
def execInstr00 (s : State) : Outcome :=
  rxTransfer false 0x00 (fun r => .next (unknownEffect r)) s

/-- SET_CGRAM_ADDR (R168, R72). -/
def execSetCgramAddr (a : BitVec 6) (s : State) : Outcome :=
  rxTransfer false (0b01#2 ++ a) (fun r => .next { r with target := some .cg, ac := some (a.setWidth 7) }) s

/-- SET_DDRAM_ADDR (R169): an address outside VIS is accepted. -/
def execSetDdramAddr (a : BitVec 7) (s : State) : Outcome :=
  rxTransfer false (1#1 ++ a) (fun r => .next { r with target := some .dd, ac := some a }) s

/-- WRITE_DATA (R170). -/
def execWriteData (b : Byte) (s : State) : Outcome :=
  rxTransfer true b (writeDataEffect b) s

/-- The receiver's dispatch of a formed byte (R156).  It is exec on the bus instructions (Laws/Receiver.lean); it stands here
because E_LO, and with it the single-nibble instructions, runs it.  No bus word decodes to another form. -/
def rxDispatch (i : Instr) (s : State) : Outcome :=
  match i with
  | .functionSet => execFunctionSet s
  | .functionSetOther x => execFunctionSetOther x s
  | .cursorShiftLeft => execCursorShiftLeft s
  | .cursorShiftRight => execCursorShiftRight s
  | .displayShiftLeft => execDisplayShiftLeft s
  | .displayShiftRight => execDisplayShiftRight s
  | .shiftOther x => execShiftOther x s
  | .displayControl d c k => execDisplayControl d c k s
  | .entryModeSet => execEntryModeSet s
  | .entryModeOther x => execEntryModeOther x s
  | .instr02Or03 x => execInstr02Or03 x s
  | .clearDisplay => execClearDisplay s
  | .instr00 => execInstr00 s
  | .setCgramAddr a => execSetCgramAddr a s
  | .setDdramAddr a => execSetDdramAddr a s
  | .writeData b => execWriteData b s
  | .init => .fault .notABusByte
  | .reservedReq _ => .fault .notABusByte
  | .cmd _ => .fault .notABusByte
  | .data _ => .fault .notABusByte
  | .bootFuncset8bit => .fault .notABusByte
  | .switch4bit => .fault .notABusByte

/-- exec(rs, b, τ) at the present time (R156). -/
def rxExec (rs : Bool) (b : Byte) (s : State) : Outcome :=
  rxDispatch (decodeBus (busWord rs b)) s

/-- A latch in a known framing (R153, R154).  In M8 the undriven low half, and in M4L an unknown NIBHI, is a draw. -/
def latchIn (f : Framing) (rs : Bool) (n : Nibble) (s : State) : Outcome :=
  match f with
  | .m8 => rxExec rs (byteOf n (Config.freeNibble s.draws)) { s with draws := s.draws + 1 }
  | .m4h => .next { s with rx := { s.rx with nibhi := some n, ifmode := some .m4l } }
  | .m4l =>
    match s.rx.nibhi with
    | some h => rxExec rs (byteOf h n) { s with rx := { s.rx with ifmode := some .m4h } }
    | none =>
      rxExec rs (byteOf (Config.freeNibble s.draws) n)
        { s with
          rx := { s.rx with nibhi := some (Config.freeNibble s.draws), ifmode := some .m4h }
          draws := s.draws + 1 }

/-- The receiver latches (rs, n) at the present time (R153): an unknown IFMODE is a draw. -/
def rxLatch (rs : Bool) (n : Nibble) (s : State) : Outcome :=
  match s.rx.ifmode with
  | some f => latchIn f rs n s
  | none =>
    latchIn (Config.freeFraming s.draws) rs n
      { s with
        rx := { s.rx with ifmode := some (Config.freeFraming s.draws) }
        draws := s.draws + 1 }

end Sys2Proof.Machine
end

