-- ==== Sys2Proof/Machine/Nibble.lean ====
section
/-! DEFINITION. The micro-operations (spec/40_pin_timing.md R85-R95), the phases in which the block runs them, and the
single-nibble family (NIB5), whose two instructions are fixed groups of micro-operations (42_controller_fsm.md R119, R120). -/

namespace Sys2Proof.Machine

/-- CFG (R88). -/
def doCfg (s : State) : State :=
  emit .cfg { s with lineRs := false, lineE := false, lineD := 0, oe := true }

/-- SET_RS (R89): the event is recorded even when the level does not change. -/
def doSetRs (v : Bool) (s : State) : State := emit (.lineRs v) { s with lineRs := v }

/-- SET_D (R90): the four lines change together, one event. -/
def doSetD (n : Nibble) (s : State) : State := emit (.dataLines n) { s with lineD := n }

/-- E_HI (R91). -/
def doEHi (s : State) : State := emit (.lineE true) { s with lineE := true }

/-- The falling edge of E (R92): the line, its event, and, while OE = 1, the entry of the latched stream (R47). -/
def dropE (s : State) : State :=
  { emit (.lineE false) { s with lineE := false } with
    latched := if s.oe then s.latched ++ [(s.lineRs, s.lineD)] else s.latched }

/-- E_LO (R92): the falling edge, on which the receiver latches (R47); while OE = 0 it sees none of it (R21). -/
def doELo (s : State) : Outcome :=
  if s.oe then rxLatch s.lineRs s.lineD (dropE s) else .next (dropE s)

/-- LOAD(rs, b) (R94): no pin event. -/
def doLoad (rs : Bool) (b : Byte) (s : State) : State :=
  { s with reqRs := rs, reqByte := b, settle := settleOf s.cfg.longSet rs b }

/-- SET_FSM(f) (R95). -/
def doSetFsm (f : Fsm) (s : State) : State := emit (.state f) { s with fsm := f }

/-- What a micro-operation does, its own duration and the advance of STEP apart (R88-R95). -/
def microEffect (m : Micro) (s : State) : Outcome :=
  match m with
  | .cfg => .next (doCfg s)
  | .setRs v => .next (doSetRs (v.value s) s)
  | .setD n => .next (doSetD (n.value s) s)
  | .eHi => .next (doEHi s)
  | .eLo => doELo s
  | .wait t => .next (waitEnd (t.value s) (waitBegin (t.value s) s))
  | .load rs b => .next (doLoad rs b s)
  | .setFsm f => .next (doSetFsm f s)

/-- What one turn of the block runs: a whole micro-operation, or the beginning or the end of a WAIT, between which the host
may raise rst (R200; log entry 9). -/
inductive Phase where
  | whole (m : Micro)
  | waitBegin (t : WaitOperand)
  | waitEnd (t : WaitOperand)
  deriving DecidableEq, Repr

/-- The phases of a micro-operation, in order. -/
def Micro.phases : Micro → List Phase
  | .wait t => [.waitBegin t, .waitEnd t]
  | .cfg => [.whole .cfg]
  | .setRs v => [.whole (.setRs v)]
  | .setD n => [.whole (.setD n)]
  | .eHi => [.whole .eHi]
  | .eLo => [.whole .eLo]
  | .load rs b => [.whole (.load rs b)]
  | .setFsm f => [.whole (.setFsm f)]

/-- The phase of a micro-operation that is due: a WAIT already begun is ended. -/
def Micro.duePhase (m : Micro) (s : State) : Phase :=
  match m with
  | .wait t => if s.waitFrom.isNone then .waitBegin t else .waitEnd t
  | .cfg => .whole .cfg
  | .setRs v => .whole (.setRs v)
  | .setD n => .whole (.setD n)
  | .eHi => .whole .eHi
  | .eLo => .whole .eLo
  | .load rs b => .whole (.load rs b)
  | .setFsm f => .whole (.setFsm f)

/-- Run one phase.  A micro-operation changes its line or register at the start of its duration (R87); STEP advances when it
is over (R17). -/
def runPhase (p : Phase) (s : State) : Outcome :=
  match p with
  | .whole m => andThen (microEffect m s) fun t => .next (elapse (advance t))
  | .waitBegin t => .next (waitBegin (t.value s) s)
  | .waitEnd t => .next (advance (waitEnd (t.value s) s))

/-- Run a group of phases as one instruction.  Between two phases the environment has its turn, as between two turns of the
block, so that rst can fall into the group and drop the rest of it (R200, R201; log entry 13). -/
def runGroup : List Phase → State → Outcome
  | [], s => .next s
  | [p], s => runPhase p s
  | p :: q :: rest, s =>
    andThen (runPhase p s) fun t =>
      andThen (envTurn t) fun u => if u.rst then .next (holdReset u) else runGroup (q :: rest) u

/-- BOOT_FUNCSET_8BIT (R119): SET_D(0x3); WAIT(P_T_DSU); PULSE, then the wait of R121. -/
def execBootFuncset8bit (s : State) : Outcome :=
  runGroup ((bootGroup (bootWait s.step)).flatMap Micro.phases) s

/-- SWITCH_4BIT (R120): SET_FSM(BOOT4); SET_D(0x2); WAIT(P_T_DSU); PULSE; WAIT(P_T_SWITCH). -/
def execSwitch4bit (s : State) : Outcome :=
  runGroup (switchGroup.flatMap Micro.phases) s

end Sys2Proof.Machine
end

