-- ==== Sys2Proof/Machine/Request.lean ====
section
/-! DEFINITION. The request family (REQ10): what an accepted request does (spec/41_nibble_transfer.md R100, R101,
42_controller_fsm.md R115, 60_exceptions.md R180, R181).  Each meaning is that of the acceptance itself; the schedule it
starts runs in the block's later turns. -/

namespace Sys2Proof.Machine

/-- INIT (R115): REINIT unless FSM = UNINIT, else the INIT schedule starts. -/
def execInit (s : State) : Outcome :=
  if s.fsm = .uninit then .next (startInit s) else .next (takeFault .reinit s)

/-- RESERVED_REQ (R75, R181): the reserved word raises RESERVED_REQ in every state that accepts; it is not recorded. -/
def execReservedReq (_w : BitVec 9) (s : State) : Outcome :=
  .next (takeFault .reservedReq s)

/-- A byte transfer: NOT_READY unless FSM = READY, else the TX schedule starts (R100, R101). -/
def transferRequest (rs : Bool) (b : Byte) (s : State) : Outcome :=
  if s.fsm = .ready then .next (startTx rs b s) else .next (takeFault .notReady s)

/-- CMD b (R100). -/
def execCmd (b : Byte) (s : State) : Outcome := transferRequest false b s

/-- DATA b (R101). -/
def execData (b : Byte) (s : State) : Outcome := transferRequest true b s

end Sys2Proof.Machine
end

