-- ==== Sys2Proof/Machine/Dispatch.lean ====
section
/-! DEFINITION. One arm per instruction: the meaning of each. -/

namespace Sys2Proof.Machine

def exec (i : Instr) (s : State) : Host.Outcome State Fault Refusal :=
  match i with
  | .init => Sys2Proof.Machine.execInit s
  | .reservedReq w => Sys2Proof.Machine.execReservedReq w s
  | .cmd b => Sys2Proof.Machine.execCmd b s
  | .data b => Sys2Proof.Machine.execData b s
  | .functionSet => Sys2Proof.Machine.execFunctionSet s
  | .functionSetOther x => Sys2Proof.Machine.execFunctionSetOther x s
  | .cursorShiftLeft => Sys2Proof.Machine.execCursorShiftLeft s
  | .cursorShiftRight => Sys2Proof.Machine.execCursorShiftRight s
  | .displayShiftLeft => Sys2Proof.Machine.execDisplayShiftLeft s
  | .displayShiftRight => Sys2Proof.Machine.execDisplayShiftRight s
  | .shiftOther x => Sys2Proof.Machine.execShiftOther x s
  | .displayControl d c k => Sys2Proof.Machine.execDisplayControl d c k s
  | .entryModeSet => Sys2Proof.Machine.execEntryModeSet s
  | .entryModeOther x => Sys2Proof.Machine.execEntryModeOther x s
  | .instr02Or03 x => Sys2Proof.Machine.execInstr02Or03 x s
  | .clearDisplay => Sys2Proof.Machine.execClearDisplay s
  | .instr00 => Sys2Proof.Machine.execInstr00 s
  | .setCgramAddr a => Sys2Proof.Machine.execSetCgramAddr a s
  | .setDdramAddr a => Sys2Proof.Machine.execSetDdramAddr a s
  | .writeData b => Sys2Proof.Machine.execWriteData b s
  | .bootFuncset8bit => Sys2Proof.Machine.execBootFuncset8bit s
  | .switch4bit => Sys2Proof.Machine.execSwitch4bit s

end Sys2Proof.Machine
end

