-- ==== Sys2Proof/Machine/Fetch.lean ====
section
/-! DEFINITION. Where the machine's next instruction comes from, and one turn of the machine.  There is no instruction memory
(spec/20_memory.md R62): a request is fetched at the port when it is accepted (R24), a single nibble from the INIT schedule
at the steps that begin its group (R117), a bus byte from the latched stream (R153, in Machine/Receiver.lean). -/

namespace Sys2Proof.Machine

/-- The NIB5 value whose group begins at pc: bootstrap pulses at INIT steps 4, 11 and 18, the switch at 25 (R117). -/
def nibbleAt (s : State) : Option (BitVec 5) :=
  if s.sched = .init then
    if s.step = 4 ∨ s.step = 11 ∨ s.step = 18 then some 0x03
    else if s.step = 25 then some 0x02
    else none
  else none

/-- The single-nibble instruction that begins at pc. -/
def fetchNibble (s : State) : Option Instr := (nibbleAt s).bind fun w => (decodeNib w).toOption

/-- A turn of the block inside a schedule: the single-nibble instruction at pc as a whole, else the phase due of the
micro-operation at pc (R17). -/
def scheduleTurn (s : State) : Outcome :=
  match fetchNibble s with
  | some i => exec i s
  | none =>
    match s.sched.steps[s.step]? with
    | some m => runPhase (m.duePhase s) s
    | none => .fault .stepBeyondSchedule

/-- Acceptance of the request at the port (R24): the client's req_valid falls with the handshake, the decoded request is
executed, and some time passes before the block's next turn. -/
def acceptTurn (s : State) : Outcome :=
  andThen (exec (decodeReq s.reqWord) { s with reqValid := false }) fun t => .next (elapse t)

/-- A turn of the block, by the priorities of R187: rst over everything, then the schedule, then acceptance; with neither,
time passes. -/
def blockTurn (s : State) : Outcome :=
  if s.rst then .next (holdReset s)
  else if s.sched ≠ .none then scheduleTurn s
  else if s.accepts then acceptTurn s
  else .next (elapse s)

/-- One turn of the machine: the environment's turn, then the block's, which an illegal configuration refuses (R9). -/
def machineTurn (s : State) : Outcome :=
  andThen (envTurn s) fun t => if configLegal t.cfg then blockTurn t else .refused .illegalConfig

/-- s with a request standing at the port of a block that accepts it.  FAULT and a running initialization accept nothing
(R130), so there FSM becomes UNINIT. -/
def placeRequest (w : ReqWord) (s : State) : State :=
  { s with
    rst := false, host := [], reqValid := true, reqWord := w
    sched := .none, step := 0, waitFrom := none, waitRem := 0
    fsm := match s.fsm with
      | .ready => .ready
      | .uninit | .boot8 | .boot4 | .fault => .uninit }

/-- s at the falling edge that completes the byte of a bus value: TX step 12 of that transfer, its first nibble held by a
receiver that is not busy. -/
def placeBus (v : BitVec 9) (s : State) : State :=
  { s with
    rst := false, host := [], fsm := .ready, sched := .tx, step := 12, waitFrom := none, waitRem := 0
    reqRs := v.getLsbD 8, reqByte := v.extractLsb' 0 8
    settle := settleOf s.cfg.longSet (v.getLsbD 8) (v.extractLsb' 0 8)
    oe := true, lineRs := v.getLsbD 8, lineE := true, lineD := lo (v.extractLsb' 0 8)
    rx := { s.rx with
      ifmode := some .m4l, nibhi := some (hi (v.extractLsb' 0 8))
      xend := min s.rx.xend s.now } }

/-- s at the step that begins a single nibble's group: INIT step 4 for a bootstrap pulse, 25 for the switch, RS set up, E low,
before a receiver whose framing expects a high nibble. -/
def placeNibble (w : BitVec 5) (s : State) : State :=
  { s with
    rst := false, host := [], fsm := .boot8, sched := .init, step := if w = 0x02 then 25 else 4
    waitFrom := none, waitRem := 0
    oe := true, lineRs := w.getLsbD 4, lineE := false
    rx := { s.rx with ifmode := some .m4h } }

/-- s with a word placed where the next turn fetches it (log entry 16). -/
def placeCode (c : Code) (s : State) : State :=
  match c with
  | .req10 w => placeRequest w s
  | .bus9 v => placeBus v s
  | .nib5 w => placeNibble w s

end Sys2Proof.Machine
end

