-- ==== Sys2Proof/Machine/Step.lean ====
section
/-! DEFINITION. One step of the machine, and the state whose next step runs a given word. -/

namespace Sys2Proof.Machine

/-- One step: the environment's turn and the block's (Machine/Fetch.lean). -/
def step (s : State) : Host.Outcome State Fault Refusal := machineTurn s

/-- s with the instruction of nbits bits w stored where step takes its next instruction: at the port, at the falling edge
that completes a bus byte, or at the INIT step that begins a single nibble's group (log entry 16). -/
def State.withFetchWord (s : State) (nbits w : Nat) : State :=
  match tableCode nbits w with
  | some c => placeCode c s
  | none => s

end Sys2Proof.Machine
end

