-- ==== Sys2Proof/Machine/Session.lean ====
section
/-! DEFINITION. The client: the Display Session API as pseudo-instructions that expand into request words
(spec/43_session_api.md R135-R152), and the end of a run (60_exceptions R198).  An expansion keeps no state, so a client's
program is the concatenation of its calls' expansions, put into State.client. -/

namespace Sys2Proof.Machine

/-- P_COLS (R8). -/
def cols : Nat := 16

/-- The last legal row, P_ROWS - 1 (R8). -/
def lastRow : Nat := 1

/-- P_ROW_STRIDE (R8). -/
def rowStride : Nat := 0x40

/-- P_CG_SLOTS (R8). -/
def cgSlots : Nat := 8

/-- P_CG_BYTES (R8). -/
def cgBytes : Nat := 8

/-- The request word CMD b (R66). -/
def cmdWord (b : Byte) : ReqWord := 0b00#2 ++ b

/-- The request word DATA b (R66). -/
def dataWord (b : Byte) : ReqWord := 0b01#2 ++ b

/-- The request word INIT (R66). -/
def initWord : ReqWord := 0x200

/-- A call of the Display Session API.  Columns, rows and slots are unsigned (R138, R143); a glyph is eight bytes. -/
inductive ApiCall where
  | init
  | clear
  | gotoXY (column row : Nat)
  | displayChar (ch : Byte)
  | displayString (text : List Byte)
  | displayInteger (value : Int)
  | loadUserCharacter (slot : Nat) (pattern : Vector Byte 8)
  | setCursorVisibility (visible blinking : Bool)
  | cursorLeft
  | cursorRight
  | shiftDisplayLeft
  | shiftDisplayRight
  /-- outside the block: emits no request and touches none of its lines (R150) -/
  | readKeys
  /-- outside the block: emits no request and touches none of its lines (R150) -/
  | setBacklight (percent : Nat)
  deriving DecidableEq, Repr

/-- displayInteger takes a signed integer of P_INT_WIDTH bits (R141); every other argument is in range as typed. -/
def ApiCall.inRange : ApiCall → Prop
  | .displayInteger v => -(2 ^ (Config.intWidth - 1) : Int) ≤ v ∧ v < (2 ^ (Config.intWidth - 1) : Int)
  | .init | .clear | .gotoXY _ _ | .displayChar _ | .displayString _ | .loadUserCharacter _ _
  | .setCursorVisibility _ _ | .cursorLeft | .cursorRight | .shiftDisplayLeft | .shiftDisplayRight
  | .readKeys | .setBacklight _ => True

/-- The decimal digits of n, most significant first, put before acc; fuel bounds their number. -/
def digitsOnto : Nat → Nat → List Byte → List Byte
  | 0, _, acc => acc
  | fuel + 1, n, acc =>
    if n = 0 then acc else digitsOnto fuel (n / 10) (BitVec.ofNat 8 (0x30 + n % 10) :: acc)

/-- The digits of a positive number; a number has at most as many decimal digits as binary ones (R142). -/
def digits (n : Nat) : List Byte := digitsOnto (Nat.log2 n + 1) n []

/-- decimal(v) (R142): '0' for 0, a leading '-' for a negative number, ASCII digits without leading zeros. -/
def decimal (v : Int) : List Byte :=
  if v = 0 then [0x30]
  else if v < 0 then 0x2D :: digits v.natAbs
  else digits v.natAbs

/-- The address of a position: row*0x40 + (column mod 16) (R138). -/
def positionAddr (column row : Nat) : Nat := row * rowStride + column % cols

/-- DATA per character from index i on, and CMD 0xC0 once, after index 15 (R140). -/
def stringData : Nat → List Byte → List ReqWord
  | _, [] => []
  | i, c :: rest =>
    if i = 15 then dataWord c :: cmdWord 0xC0 :: stringData (i + 1) rest
    else dataWord c :: stringData (i + 1) rest

/-- displayString's requests: the clear, then the characters (R140). -/
def stringRequests (text : List Byte) : List ReqWord := cmdWord 0x01 :: stringData 0 text

/-- The request words a call emits, in order (R136-R148). -/
def ApiCall.requests : ApiCall → List ReqWord
  | .init => [initWord]
  | .clear => [cmdWord 0x01]
  | .gotoXY column row =>
    if lastRow < row then [] else [cmdWord (0x80#8 ||| BitVec.ofNat 8 (positionAddr column row))]
  | .displayChar ch => [dataWord ch]
  | .displayString text => stringRequests text
  | .displayInteger v => stringRequests (decimal v)
  | .loadUserCharacter slot pattern =>
    if slot < cgSlots then
      cmdWord (0x40#8 ||| BitVec.ofNat 8 (cgBytes * slot)) :: pattern.toList.map dataWord
    else []
  | .setCursorVisibility visible blinking =>
    [cmdWord (0b000011#6 ++ BitVec.ofBool visible ++ BitVec.ofBool blinking)]
  | .cursorLeft => [cmdWord 0x10]
  | .cursorRight => [cmdWord 0x14]
  | .shiftDisplayLeft => [cmdWord 0x18]
  | .shiftDisplayRight => [cmdWord 0x1C]
  | .readKeys => []
  | .setBacklight _ => []

/-- The client's program: calls to be made in order, one request at a time (R135). -/
def withCalls (calls : List ApiCall) (s : State) : State :=
  { s with client := s.client ++ calls.flatMap ApiCall.requests }

/-- Every call has completed: nothing left to present, and no emit waits for req_ready to be 1 again.  A call that emits
nothing is complete at once, in FAULT and while rst = 1 too (R135, R149); and what is complete stays complete, since envTurn ends
an emit that is over before the host moves. -/
def clientDone (s : State) : Bool := s.client.isEmpty && (!s.emitting || s.reqReady)

/-- The end of a run: FAULT, or every request accepted and no schedule running (R198). -/
def runEnded (s : State) : Bool :=
  s.fsm = .fault || (s.client.isEmpty && !s.reqValid && s.sched = .none)

end Sys2Proof.Machine
end

