-- ==== Sys2Proof/Machine/Assembly.lean ====
section
/-! DEFINITION. The assembly forms of spec/30_encoding.md: requests (R79), the named bytes of CMD (R80), the pin-trace notation
(R82) and disassembly (R83). -/

namespace Sys2Proof.Machine

/-- Why a line is no request (R79, R80). -/
inductive AsmError where
  /-- neither INIT, CMD nor DATA, or not as many operands as it takes -/
  | notARequest
  /-- not a number, a character literal or a name of R80 -/
  | badOperand
  /-- an operand out of its range -/
  | outOfRange
  deriving DecidableEq, Repr

/-- What may stand after CMD: a byte, or a name of R80. -/
inductive CmdOperand where
  | byte (n : Nat)
  | funcset
  | dispoff
  | dispon
  | clear
  | entrymode
  | curl
  | curr
  | displ
  | dispr
  | dispctl (c k : Nat)
  | setdd (a : Nat)
  | setcg (a : Nat)
  deriving DecidableEq, Repr

/-- A request line (R79). -/
inductive AsmLine where
  | init
  | cmd (operand : CmdOperand)
  | data (n : Nat)
  deriving DecidableEq, Repr

/-- A number below its limit, as a byte. -/
def byteBelow (limit n : Nat) : Except AsmError Byte :=
  if n < limit then .ok (BitVec.ofNat 8 n) else .error .outOfRange

/-- The byte a CMD operand stands for; a name's operand out of range is an assembly error (R80). -/
def CmdOperand.value : CmdOperand → Except AsmError Byte
  | .byte n => byteBelow 256 n
  | .funcset => .ok 0x28
  | .dispoff => .ok 0x08
  | .dispon => .ok 0x0C
  | .clear => .ok 0x01
  | .entrymode => .ok 0x06
  | .curl => .ok 0x10
  | .curr => .ok 0x14
  | .displ => .ok 0x18
  | .dispr => .ok 0x1C
  | .dispctl c k => if c < 2 ∧ k < 2 then .ok (BitVec.ofNat 8 (0x0C ||| c <<< 1 ||| k)) else .error .outOfRange
  | .setdd a => (byteBelow 0x80 a).map (0x80#8 ||| ·)
  | .setcg a => (byteBelow 0x40 a).map (0x40#8 ||| ·)

/-- The request word of a line (R79). -/
def AsmLine.word : AsmLine → Except AsmError ReqWord
  | .init => .ok initWord
  | .cmd operand => operand.value.map cmdWord
  | .data n => (byteBelow 256 n).map dataWord

/-! ### Text -/

/-- A word that is not empty, before the words that follow it. -/
def wordBefore (w : List Char) (rest : List (List Char)) : List (List Char) :=
  if w.isEmpty then rest else w :: rest

/-- The words of a line: up to a `;`, a character literal being one word (R79).  DESIGN CHOICE (log entry 27): the rules name
no separators beyond the space and comma they are written with; spaces, tabs and commas, any number of them, separate. -/
def lineWords (w : List Char) : List Char → List (List Char)
  | [] => wordBefore w []
  | '\'' :: c :: '\'' :: rest => wordBefore w (['\'', c, '\''] :: lineWords [] rest)
  | c :: rest =>
    if c = ';' then wordBefore w []
    else if c = ' ' ∨ c = '\t' ∨ c = ',' then wordBefore w (lineWords [] rest)
    else lineWords (w ++ [c]) rest

/-- The value of a digit in a base; a hexadecimal letter in either case: DESIGN CHOICE (log entry 27). -/
def digitValue (base : Nat) (c : Char) : Option Nat :=
  let v := if '0' ≤ c ∧ c ≤ '9' then c.toNat - '0'.toNat
    else if 'a' ≤ c ∧ c ≤ 'f' then c.toNat - 'a'.toNat + 10
    else if 'A' ≤ c ∧ c ≤ 'F' then c.toNat - 'A'.toNat + 10
    else base
  if v < base then some v else none

/-- The number a word of digits stands for.  R10 gives `_` as a visual separator in binary.  DESIGN CHOICE (log entry 27): it is
skipped in decimal and hexadecimal too, wherever it stands, and a word of `_` alone is read as 0. -/
def digitsValue (base acc : Nat) : List Char → Option Nat
  | [] => some acc
  | c :: rest =>
    if c = '_' then digitsValue base acc rest
    else match digitValue base c with
      | some v => digitsValue base (acc * base + v) rest
      | none => none

/-- A number: decimal, 0x, 0b, or a character literal, which denotes its ASCII code (R79).  DESIGN CHOICE (log entry 27): `_` in
a number of any of the three bases, as digitsValue reads it (so `_` and `0x_` are 0); a character that is not ASCII is out of
range. -/
def numberOf (w : List Char) : Except AsmError Nat :=
  match w with
  | ['\'', c, '\''] => if c.toNat < 128 then .ok c.toNat else .error .outOfRange
  | '0' :: 'x' :: d :: rest => (digitsValue 16 0 (d :: rest)).elim (.error .badOperand) .ok
  | '0' :: 'b' :: d :: rest => (digitsValue 2 0 (d :: rest)).elim (.error .badOperand) .ok
  | d :: rest => (digitsValue 10 0 (d :: rest)).elim (.error .badOperand) .ok
  | [] => .error .badOperand

/-- CMD's operand words (R80).  DESIGN CHOICE (log entry 27): R80 does not say how an alias's operand a, c or k is written; any
number form of R79 is read there, a character literal included. -/
def cmdOperandOf (ws : List (List Char)) : Except AsmError CmdOperand :=
  match ws with
  | [w] =>
    if w = ['F', 'U', 'N', 'C', 'S', 'E', 'T'] then .ok .funcset
    else if w = ['D', 'I', 'S', 'P', 'O', 'F', 'F'] then .ok .dispoff
    else if w = ['D', 'I', 'S', 'P', 'O', 'N'] then .ok .dispon
    else if w = ['C', 'L', 'E', 'A', 'R'] then .ok .clear
    else if w = ['E', 'N', 'T', 'R', 'Y', 'M', 'O', 'D', 'E'] then .ok .entrymode
    else if w = ['C', 'U', 'R', 'L'] then .ok .curl
    else if w = ['C', 'U', 'R', 'R'] then .ok .curr
    else if w = ['D', 'I', 'S', 'P', 'L'] then .ok .displ
    else if w = ['D', 'I', 'S', 'P', 'R'] then .ok .dispr
    else (numberOf w).map .byte
  | [w, a] =>
    if w = ['S', 'E', 'T', 'D', 'D'] then (numberOf a).map .setdd
    else if w = ['S', 'E', 'T', 'C', 'G'] then (numberOf a).map .setcg
    else .error .badOperand
  | [w, c, k] =>
    if w = ['D', 'I', 'S', 'P', 'C', 'T', 'L'] then
      match numberOf c, numberOf k with
      | .ok x, .ok y => .ok (.dispctl x y)
      | .error e, _ => .error e
      | .ok _, .error e => .error e
    else .error .badOperand
  | _ => .error .notARequest

/-- A line of text: a request, or none where it holds only a comment (R79).  DESIGN CHOICE (log entry 27): a blank line is no
request either, and no error. -/
def parseLine (line : List Char) : Except AsmError (Option AsmLine) :=
  match lineWords [] line with
  | [] => .ok none
  | w :: ws =>
    if w = ['I', 'N', 'I', 'T'] then if ws = [] then .ok (some .init) else .error .notARequest
    else if w = ['C', 'M', 'D'] then (cmdOperandOf ws).map fun o => some (.cmd o)
    else if w = ['D', 'A', 'T', 'A'] then
      match ws with
      | [a] => (numberOf a).map fun n => some (.data n)
      | _ => .error .notARequest
    else .error .notARequest

/-- The request words of a program, one line each (R79).  DESIGN CHOICE (log entry 27): a line that is in error leaves the whole
program without words. -/
def assemble : List (List Char) → Except AsmError (List ReqWord)
  | [] => .ok []
  | line :: rest =>
    match parseLine line, assemble rest with
    | .ok none, r => r
    | .ok (some a), .ok ws => a.word.map (· :: ws)
    | .ok (some _), .error e => .error e
    | .error e, _ => .error e

/-! ### Disassembly and the trace notation -/

/-- One upper-case hexadecimal digit. -/
def hexDigit (n : Nibble) : String :=
  match n.toNat with
  | 0 => "0" | 1 => "1" | 2 => "2" | 3 => "3" | 4 => "4" | 5 => "5" | 6 => "6" | 7 => "7"
  | 8 => "8" | 9 => "9" | 10 => "A" | 11 => "B" | 12 => "C" | 13 => "D" | 14 => "E" | _ => "F"

/-- A byte as 0x and two digits. -/
def hexByte (b : Byte) : String := "0x" ++ hexDigit (hi b) ++ hexDigit (lo b)

/-- A level as one digit. -/
def bitDigit (b : Bool) : String := if b then "1" else "0"

/-- A CMD byte through its name of R80 where it has one (R83).  DESIGN CHOICE (log entry 28): 0x0C, which R80 names both DISPON
and DISPCTL 0,0, is printed DISPON; operands and bytes are printed in the one form of hexByte and bitDigit. -/
def cmdText (b : Byte) : String :=
  match decodeByte b with
  | .functionSet => "FUNCSET"
  | .clearDisplay => "CLEAR"
  | .entryModeSet => "ENTRYMODE"
  | .cursorShiftLeft => "CURL"
  | .cursorShiftRight => "CURR"
  | .displayShiftLeft => "DISPL"
  | .displayShiftRight => "DISPR"
  | .displayControl true false false => "DISPON"
  | .displayControl true c k => "DISPCTL " ++ bitDigit c ++ "," ++ bitDigit k
  | .displayControl false false false => "DISPOFF"
  | .setDdramAddr a => "SETDD " ++ hexByte (a.setWidth 8)
  | .setCgramAddr a => "SETCG " ++ hexByte (a.setWidth 8)
  | _ => hexByte b

/-- The printed form of an instruction: a request by R79, a bus byte as I:<mnemonic> <fields> or D:<byte>, a nibble as
N:<nibble> (R83).  DESIGN CHOICE (log entry 28): a reserved request, which has no form in R79, is printed RESERVED_REQ without
its word; <fields> are the fields the opcode table gives the row, for an unlisted row all its variable bits as one number, also
for FUNCTION_SET_OTHER, whose R158 names b[4] alone (0x33 is printed with 0x13); they are printed as bare bits or 0x bytes; a
nibble is printed with 0x. -/
def disassemble : Instr → String
  | .init => "INIT"
  | .reservedReq _ => "RESERVED_REQ"
  | .cmd b => "CMD " ++ cmdText b
  | .data b => "DATA " ++ hexByte b
  | .functionSet => "I:FUNCTION_SET"
  | .functionSetOther x => "I:FUNCTION_SET_OTHER " ++ hexByte (x.setWidth 8)
  | .cursorShiftLeft => "I:CURSOR_SHIFT_LEFT"
  | .cursorShiftRight => "I:CURSOR_SHIFT_RIGHT"
  | .displayShiftLeft => "I:DISPLAY_SHIFT_LEFT"
  | .displayShiftRight => "I:DISPLAY_SHIFT_RIGHT"
  | .shiftOther x => "I:SHIFT_OTHER " ++ hexByte (x.setWidth 8)
  | .displayControl d c k => "I:DISPLAY_CONTROL " ++ bitDigit d ++ bitDigit c ++ bitDigit k
  | .entryModeSet => "I:ENTRY_MODE_SET"
  | .entryModeOther x => "I:ENTRY_MODE_OTHER " ++ hexByte (x.setWidth 8)
  | .instr02Or03 x => "I:INSTR_0x02_0x03 " ++ bitDigit x
  | .clearDisplay => "I:CLEAR_DISPLAY"
  | .instr00 => "I:INSTR_0x00"
  | .setCgramAddr a => "I:SET_CGRAM_ADDR " ++ hexByte (a.setWidth 8)
  | .setDdramAddr a => "I:SET_DDRAM_ADDR " ++ hexByte (a.setWidth 8)
  | .writeData b => "D:" ++ hexByte b
  | .bootFuncset8bit => "N:0x3"
  | .switch4bit => "N:0x2"

/-- FSM's name (R18). -/
def fsmText : Fsm → String
  | .uninit => "UNINIT"
  | .boot8 => "BOOT8"
  | .boot4 => "BOOT4"
  | .ready => "READY"
  | .fault => "FAULT"

/-- A pin-trace event in the notation of R82. -/
def eventText : Event → String
  | .cfg => "CFG"
  | .lineRs v => "RS=" ++ bitDigit v
  | .dataLines n => "D=" ++ hexDigit n
  | .lineE true => "E↑"
  | .lineE false => "E↓"
  | .wait t _ => "W(" ++ toString t ++ ")"
  | .state f => "FSM:=" ++ fsmText f

end Sys2Proof.Machine
end

