-- ==== Sys2Proof/Safety.lean ====
section
/-! DEFINITION. What claims rest on: the rows of the opcode table, the assumption A_SETTLE_SUFFICES
(spec/44_instruction_bytes.md R173), the states of a run, and the invariants of the machine (10_state R34, 20_memory R47-R49,
40_pin_timing R86, R87, 41_nibble_transfer R104, R105, 42_controller_fsm R133). -/

namespace Sys2Proof.Safety

open Sys2Proof.Machine

/-! ### The opcode table -/

/-- A row of spec/opcode_table.json: its form, its fixed bits, and which bits are fixed. -/
structure TableRow where
  form : Form
  value : Nat
  mask : Nat
  deriving DecidableEq, Repr

/-- The row of an instruction. -/
def rowOf : Instr → TableRow
  | .init => ⟨.req10, 0x200, 0x3ff⟩
  | .reservedReq _ => ⟨.req10, 0x200, 0x200⟩
  | .cmd _ => ⟨.req10, 0x000, 0x300⟩
  | .data _ => ⟨.req10, 0x100, 0x300⟩
  | .functionSet => ⟨.bus9, 0x028, 0x1ff⟩
  | .functionSetOther _ => ⟨.bus9, 0x020, 0x1e0⟩
  | .cursorShiftLeft => ⟨.bus9, 0x010, 0x1ff⟩
  | .cursorShiftRight => ⟨.bus9, 0x014, 0x1ff⟩
  | .displayShiftLeft => ⟨.bus9, 0x018, 0x1ff⟩
  | .displayShiftRight => ⟨.bus9, 0x01c, 0x1ff⟩
  | .shiftOther _ => ⟨.bus9, 0x010, 0x1f0⟩
  | .displayControl _ _ _ => ⟨.bus9, 0x008, 0x1f8⟩
  | .entryModeSet => ⟨.bus9, 0x006, 0x1ff⟩
  | .entryModeOther _ => ⟨.bus9, 0x004, 0x1fc⟩
  | .instr02Or03 _ => ⟨.bus9, 0x002, 0x1fe⟩
  | .clearDisplay => ⟨.bus9, 0x001, 0x1ff⟩
  | .instr00 => ⟨.bus9, 0x000, 0x1ff⟩
  | .setCgramAddr _ => ⟨.bus9, 0x040, 0x1c0⟩
  | .setDdramAddr _ => ⟨.bus9, 0x080, 0x180⟩
  | .writeData _ => ⟨.bus9, 0x100, 0x100⟩
  | .bootFuncset8bit => ⟨.nib5, 0x03, 0x1f⟩
  | .switch4bit => ⟨.nib5, 0x02, 0x1f⟩

/-- The table's rows, in its order. -/
def tableRows : List TableRow :=
  [rowOf .init, rowOf (.reservedReq 0), rowOf (.cmd 0), rowOf (.data 0), rowOf .functionSet, rowOf (.functionSetOther 0),
    rowOf .cursorShiftLeft, rowOf .cursorShiftRight, rowOf .displayShiftLeft, rowOf .displayShiftRight,
    rowOf (.shiftOther 0), rowOf (.displayControl false false false), rowOf .entryModeSet, rowOf (.entryModeOther 0),
    rowOf (.instr02Or03 false), rowOf .clearDisplay, rowOf .instr00, rowOf (.setCgramAddr 0), rowOf (.setDdramAddr 0),
    rowOf (.writeData 0), rowOf .bootFuncset8bit, rowOf .switch4bit]

/-- A number of a row's form has the row's fixed bits. -/
def TableRow.covers (r : TableRow) (n : Nat) : Bool := n &&& r.mask == r.value

/-- How many bits a mask fixes. -/
def ones (n : Nat) : Nat := (List.range 10).countP n.testBit

/-- r is the row a decoder takes for the number n of form f: it covers n, and every other row of the form that does fixes
fewer bits (R73). -/
def picks (r : TableRow) (f : Form) (n : Nat) : Prop :=
  r.form = f ∧ r.covers n = true ∧ ∀ q ∈ tableRows, q.form = f → q.covers n = true → q = r ∨ ones q.mask < ones r.mask

/-- The form of a word. -/
def formOf : Code → Form
  | .req10 _ => .req10
  | .bus9 _ => .bus9
  | .nib5 _ => .nib5

/-- A word as a number. -/
def codeNumber : Code → Nat
  | .req10 w => w.toNat
  | .bus9 w => w.toNat
  | .nib5 w => w.toNat

/-! ### The states of a run -/

/-- A state in which rst falls (R33, R35): any configuration, client and host script, the registers R35 leaves unspecified at
any value. -/
structure AtReset (s : State) : Prop where
  fsm : s.fsm = .uninit
  sched : s.sched = .none
  step : s.step = 0
  fcode : s.fcode = .none
  oe : s.oe = false
  waitRem : s.waitRem = 0
  waitFrom : s.waitFrom = none
  rx : s.rx = Receiver.unknown s.powerUp
  powered : s.powerUp ≤ s.now
  trace : s.trace = []
  latched : s.latched = []

/-- The states of all runs. -/
inductive Reachable : State → Prop where
  | start {s : State} : AtReset s → Reachable s
  | next {s t : State} : Reachable s → step s = .next t → Reachable t

/-! ### Requests and the trace -/

/-- The fault an accepted request raises, if any: the causes of R181 in its order. -/
def faultCause (w : ReqWord) (f : Fsm) : FaultCode :=
  if w.getLsbD 9 = true ∧ w.extractLsb' 0 9 ≠ 0 then .reservedReq
  else if w = 0x200 ∧ f ≠ .uninit then .reinit
  else if w.getLsbD 9 = false ∧ f ≠ .ready then .notReady
  else .none

/-- An event as R82 writes it: without the duration a wait took. -/
def asked (e : Event) : Event :=
  match e with
  | .wait t _ => .wait t 0
  | .cfg => .cfg
  | .lineRs v => .lineRs v
  | .dataLines n => .dataLines n
  | .lineE v => .lineE v
  | .state f => .state f

/-- A pin trace in the notation of R82. -/
def written (t : List (Nat × Event)) : List Event := t.map fun e => asked e.2

/-- VIS: an address of the 16x2 positions (R163). -/
def Vis (a : BitVec 7) : Prop := a.toNat ≤ 0x0F ∨ (0x40 ≤ a.toNat ∧ a.toNat ≤ 0x4F)

/-- The number a decimal text writes, read left to right from acc (R142). -/
def textValue (acc : Nat) : List Byte → Nat
  | [] => acc
  | c :: rest => textValue (acc * 10 + (c.toNat - 0x30)) rest

/-! ### The receiver-timing assumption -/

/-- A_SETTLE_SUFFICES (R173): R_EXEC is at most the settle of every transfer; the byte executed at bootstrap pulse k finishes
within P_T_BOOTk, and the switch pulse's function set within P_T_SWITCH.  At pulse 1 a 4-bit receiver may complete any byte
with low half 3; an 8-bit receiver executes the pulse's nibble with any low half. -/
structure SettleSuffices (c : Config) : Prop where
  transfer : ∀ rs b, Config.rExec rs b ≤ settleTime c (settleOf c.longSet rs b)
  boot1Pair : ∀ h : Nibble, Config.rExec false (byteOf h 3) ≤ c.tBoot1
  boot1 : ∀ x : Nibble, Config.rExec false (byteOf 3 x) ≤ c.tBoot1
  boot2 : ∀ x : Nibble, Config.rExec false (byteOf 3 x) ≤ c.tBoot2
  boot3 : ∀ x : Nibble, Config.rExec false (byteOf 3 x) ≤ c.tBoot3
  switch : ∀ x : Nibble, Config.rExec false (byteOf 2 x) ≤ c.tSwitch

/-! ### The block -/

/-- E after some micro-operations that started from E = 0. -/
def levelAfter (ops : List Micro) : Bool :=
  ops.foldl (fun e m => match m with
    | .eHi => true
    | .eLo => false
    | .cfg => false
    | .setRs _ | .setD _ | .wait _ | .load _ _ | .setFsm _ => e) false

/-- The micro-operations of the current schedule already run. -/
def opsDone (s : State) : List Micro := s.sched.steps.take s.step

/-- FSM as R128 and R34 give it for each pc. -/
def fsmFits (s : State) : Prop :=
  match s.sched with
  | .none => s.fsm = .uninit ∨ s.fsm = .ready ∨ s.fsm = .fault
  | .init => s.fsm = if s.step ≤ 25 then .boot8 else .boot4
  | .tx => s.fsm = .ready

/-- OE as R34 (d) and R88 give it for each pc; a FAULT keeps what it found. -/
def oeFits (s : State) : Prop :=
  match s.sched with
  | .none => (s.fsm = .uninit → s.oe = false) ∧ (s.fsm = .ready → s.oe = true)
  | .init => s.oe = decide (1 ≤ s.step)
  | .tx => s.oe = true

/-- The block's invariant: R17's range of STEP, R34 (a)-(f), R128, and what R22, R33 and R35 say of the registers. -/
structure BlockInv (s : State) : Prop where
  stepInRange : (s.sched = .none ∧ s.step = 0) ∨ s.step < s.sched.steps.length
  fsm : fsmFits s
  oe : oeFits s
  lineE : s.oe = true → s.lineE = levelAfter (opsDone s)
  waiting : s.waitFrom.isSome = true → ∃ t, s.sched.steps[s.step]? = some (.wait t)
  noWait : s.waitFrom = none → s.waitRem = 0
  fcode : s.fsm = .fault ↔ s.fcode ≠ .none
  undriven : s.oe = false → s.rx = Receiver.unknown s.powerUp

/-- R34 (a)-(f) as the spec lists them. -/
structure R34 (s : State) : Prop where
  a : s.sched ≠ .none → s.fsm = .boot8 ∨ s.fsm = .boot4 ∨ s.fsm = .ready
  b : s.fsm = .fault → s.sched = .none
  c : s.sched = .none → s.lineE = false ∨ s.oe = false
  d : s.fsm = .boot4 ∨ s.fsm = .ready → s.oe = true
  e : s.sched = .init → s.fsm = .boot8 ∨ s.fsm = .boot4
  f : s.sched = .tx → s.fsm = .ready

/-! ### Time -/

/-- When an event of the trace ends: a wait lasts its duration, any other event is an instant (R86). -/
def eventEnd (e : Nat × Event) : Nat :=
  match e.2 with
  | .wait _ d => e.1 + d
  | .cfg | .lineRs _ | .dataLines _ | .lineE _ | .state _ => e.1

/-- The least duration a trace event asks for: a wait its parameter (R86, R93). -/
def eventMin (e : Nat × Event) : Nat :=
  match e.2 with
  | .wait t _ => t
  | .cfg | .lineRs _ | .dataLines _ | .lineE _ | .state _ => 0

/-- Time runs forward: each event of the trace ends no later than the next begins, and none after the present, or after the
beginning of the wait in progress; every wait lasts at least what it asked for, the one in progress included (R22, R86, R87,
R93). -/
structure TimeInv (s : State) : Prop where
  ordered : s.trace.Pairwise fun a b => eventEnd a ≤ b.1
  past : ∀ e ∈ s.trace, eventEnd e ≤ s.waitFrom.getD s.now
  began : s.waitFrom.getD s.now ≤ s.now
  waited : ∀ e ∈ s.trace, e.1 + eventMin e ≤ eventEnd e
  owed : ∀ t0 t, s.waitFrom = some t0 → s.sched.steps[s.step]? = some (.wait t) → t.value s ≤ s.now - t0 + s.waitRem

/-! ### The latched stream -/

/-- What the lines RS and D show, and what has been latched, while a trace is read (R46, R47). -/
structure Replay where
  rs : Bool
  d : Nibble
  latched : List (Bool × Nibble)

/-- Reading one trace event (R47, R88-R92). -/
def Replay.event (r : Replay) (e : Nat × Event) : Replay :=
  match e.2 with
  | .cfg => { r with rs := false, d := 0 }
  | .lineRs v => { r with rs := v }
  | .dataLines n => { r with d := n }
  | .lineE false => { r with latched := r.latched ++ [(r.rs, r.d)] }
  | .lineE true | .wait _ _ | .state _ => r

/-- Reading a pin trace from its beginning. -/
def replay (t : List (Nat × Event)) : Replay := t.foldl Replay.event { rs := false, d := 0, latched := [] }

/-- The latched stream is what the pin trace says was on RS and D at each falling edge of E, and the driven lines are where
the trace left them (R47, R86). -/
structure StreamInv (s : State) : Prop where
  latched : s.latched = (replay s.trace).latched
  lines : s.oe = true → s.lineRs = (replay s.trace).rs ∧ s.lineD = (replay s.trace).d

/-! ### What a schedule puts on the bus -/

/-- The data path of the block while a schedule is read. -/
structure DataPath where
  reqRs : Bool
  reqByte : Byte
  rs : Bool
  d : Nibble
  out : List (Bool × Nibble)

/-- The effect of one micro-operation on the data path (R88-R95). -/
def DataPath.micro (p : DataPath) (m : Micro) : DataPath :=
  match m with
  | .cfg => { p with rs := false, d := 0 }
  | .setRs (.level v) => { p with rs := v }
  | .setRs .reqRs => { p with rs := p.reqRs }
  | .setD (.const n) => { p with d := n }
  | .setD .hiReq => { p with d := hi p.reqByte }
  | .setD .loReq => { p with d := lo p.reqByte }
  | .eLo => { p with out := p.out ++ [(p.rs, p.d)] }
  | .load rs b => { p with reqRs := rs, reqByte := b }
  | .eHi | .wait _ | .setFsm _ => p

/-- Reading micro-operations from a data path that has latched nothing. -/
def pathAfter (reqRs : Bool) (reqByte : Byte) (rs : Bool) (d : Nibble) (ops : List Micro) : DataPath :=
  ops.foldl DataPath.micro { reqRs := reqRs, reqByte := reqByte, rs := rs, d := d, out := [] }

/-- While a schedule runs, the data path is where its steps so far put it, from some beginning, and the latched stream ends
with the nibbles those steps latched (R102, R104, R105, R117, R132). -/
def ScheduleInv (s : State) : Prop :=
  s.sched = .none ∨
    ∃ rs0 b0 l0 d0 before,
      s.reqRs = (pathAfter rs0 b0 l0 d0 (opsDone s)).reqRs
        ∧ s.reqByte = (pathAfter rs0 b0 l0 d0 (opsDone s)).reqByte
        ∧ (s.oe = true → s.lineRs = (pathAfter rs0 b0 l0 d0 (opsDone s)).rs
          ∧ s.lineD = (pathAfter rs0 b0 l0 d0 (opsDone s)).d)
        ∧ s.latched = before ++ (pathAfter rs0 b0 l0 d0 (opsDone s)).out

/-! ### Framing, and the receiver never busy -/

/-- A request word that leaves the receiver's framing alone: not a CMD of 0x30-0x3F (R210). -/
def keepsFraming (w : ReqWord) : Bool :=
  match decodeReq w with
  | .cmd b => hi b != 3
  | _ => true

/-- A host move that presents no such word. -/
def moveKeepsFraming (m : HostMove) : Bool :=
  match m with
  | .drive w => keepsFraming w
  | .idle | .setRst _ | .applyPower | .withdraw => true

/-- How many falling edges of E some micro-operations hold. -/
def edges (ops : List Micro) : Nat := ops.countP (· == .eLo)

/-- Half-way through a byte: a 4-bit receiver holding the high nibble h. -/
def midByte (s : State) (h : Nibble) : Prop := s.rx.ifmode = some .m4l ∧ s.rx.nibhi = some h

/-- The receiver's framing after n falling edges of the schedule (R49, R110, R155): in TX a byte boundary, the high nibble,
a byte boundary; in INIT unknown, then converging to 8-bit framing at the third pulse, then 4-bit framing from the switch
on, byte by byte. -/
def framingFits (s : State) : Prop :=
  let n := edges (opsDone s)
  match s.sched with
  | .none => s.fsm = .ready → s.rx.ifmode = some .m4h
  | .tx => if n = 1 then midByte s (hi s.reqByte) else s.rx.ifmode = some .m4h
  | .init =>
    if n = 0 then True
    else if n = 1 then s.rx.ifmode = some .m8 ∨ s.rx.ifmode = some .m4h ∨ midByte s 3
    else if n = 2 then s.rx.ifmode = some .m8 ∨ midByte s 3
    else if n = 3 then s.rx.ifmode = some .m8
    else if n % 2 = 0 then s.rx.ifmode = some .m4h
    else midByte s (hi s.reqByte)

/-- The least time some micro-operations take before their first falling edge of E (R87). -/
def leastTime (s : State) : List Micro → Nat
  | [] => 0
  | .eLo :: _ => 0
  | .wait t :: rest => t.value s + leastTime s rest
  | .cfg :: rest | .setRs _ :: rest | .setD _ :: rest | .eHi :: rest | .load _ _ :: rest | .setFsm _ :: rest =>
    leastTime s rest

/-- The least time before the next falling edge of E, or to the end of the schedule if none is left (R87). -/
def timeToLatch (s : State) : Nat :=
  match s.waitFrom with
  | none => leastTime s (s.sched.steps.drop s.step)
  | some _ => s.waitRem + leastTime s (s.sched.steps.drop (s.step + 1))

/-- The receiver keeps up: its framing is at a byte boundary when a transfer begins and it is ready by the next falling edge,
as long as no request to come is a function set that changes the framing (R59, R110, R111, R173, R175, R210). -/
structure ReceiverInv (s : State) : Prop where
  framing : framingFits s
  ready : s.sched ≠ .none ∨ s.fsm = .ready → s.rx.xend ≤ s.now + timeToLatch s
  powered : s.powerUp ≤ s.now
  port : s.reqValid = true → keepsFraming s.reqWord = true
  client : ∀ w ∈ s.client, keepsFraming w = true
  host : ∀ m ∈ s.host, moveKeepsFraming m = true
  transfer : s.sched = .tx → s.reqRs = true ∨ hi s.reqByte ≠ 3
  settle : s.sched = .tx ∨ (s.sched = .init ∧ 33 < s.step) → s.settle = settleOf s.cfg.longSet s.reqRs s.reqByte

/-- What the initialization has made of the receiver after n of its 14 falling edges: CGRAM still unknown, then function set,
display off, clear, entry mode, display on, each at the edge that completes its byte (R122-R126, R133). -/
def initFits (s : State) : Prop :=
  s.sched = .init →
    s.rx.mem.cg = []
      ∧ (6 ≤ edges (opsDone s) → s.rx.func = some .f28)
      ∧ (8 ≤ edges (opsDone s) → s.rx.cur = some false ∧ s.rx.blink = some false)
      ∧ (10 ≤ edges (opsDone s) → s.rx.target = some .dd ∧ s.rx.ac = some 0 ∧ s.rx.shift = some 0
        ∧ s.rx.mem.ddFill = .blank ∧ s.rx.mem.dd = [])
      ∧ (12 ≤ edges (opsDone s) → s.rx.entry = some .incNoShift)
      ∧ (14 ≤ edges (opsDone s) → s.rx.disp = some true)

end Sys2Proof.Safety
end

