-- ==== Sys2Proof/Certificates/Slice0/Obligations.lean ====
section
/-! DEFINITION. The statements for the provers. -/

section

open Sys2Proof Sys2Proof.Machine Sys2Proof.Safety

/-! ### Encoding -/

/-- The example encodings of spec/30_encoding.md R84, assembled from text; R84 is the spec's own derivation from R66 and R80. -/
def Obligations.EncodingExamples : Prop :=
  assemble ["INIT".toList, "CMD FUNCSET".toList, "CMD CLEAR".toList, "CMD SETDD 0x45".toList, "CMD SETCG 0x18".toList,
      "DATA 'A'".toList, "DATA 0xFF".toList]
    = .ok [0x200, 0x028, 0x001, 0x0C5, 0x058, 0x141, 0x1FF]

/-- R73: for every request word and every bus value, the instruction decoded is that of the one matching row whose mask has
the most 1 bits.  R73 is the spec's own derivation from R67 and R70. -/
def Obligations.DecodePriority : Prop :=
  (∀ w : ReqWord, picks (rowOf (decodeReq w)) .req10 w.toNat)
    ∧ ∀ w : BitVec 9, picks (rowOf (decodeBus w)) .bus9 w.toNat

/-- Every well-formed instruction, with every operand, is decoded from its own word (R65-R73). -/
def Obligations.DecodeEncode : Prop :=
  ∀ i : Instr, i.wellFormed = true → decode (encode i) = .ok i

/-- Every word that decodes is the word of the well-formed instruction it decodes to: no two words share a meaning, and no
word decodes to an instruction of another row (R65-R73). -/
def Obligations.EncodeDecode : Prop :=
  ∀ (c : Code) (i : Instr), decode c = .ok i → encode i = c ∧ i.wellFormed = true

/-- R69: the two single nibbles, the steps of the INIT schedule at which they are fetched, and what their groups latch. -/
def Obligations.SingleNibbles : Prop :=
  (∀ (w : BitVec 5) (i : Instr), decode (.nib5 w) = .ok i ↔
      (w = 0b00011 ∧ i = .bootFuncset8bit) ∨ (w = 0b00010 ∧ i = .switch4bit))
    ∧ (∀ s : State, fetchNibble s =
        if s.sched = .init ∧ (s.step = 4 ∨ s.step = 11 ∨ s.step = 18) then some .bootFuncset8bit
        else if s.sched = .init ∧ s.step = 25 then some .switch4bit
        else none)
    ∧ (∀ (rs : Bool) (b : Byte) (d : Nibble) (w : WaitOperand),
        (pathAfter rs b false d (bootGroup w)).out =
          [((0b00011#5).getLsbD 4, (0b00011#5).extractLsb' 0 4)])
    ∧ ∀ (rs : Bool) (b : Byte) (d : Nibble),
        (pathAfter rs b false d switchGroup).out = [((0b00010#5).getLsbD 4, (0b00010#5).extractLsb' 0 4)]

/-- Some words of each form, written out from the tables of R67, R69 and R70, and what they decode to. -/
def Obligations.DecodedWords : Prop :=
  decode (.req10 0b10_0000_0000) = .ok .init
    ∧ decode (.req10 0b10_0000_0001) = .ok (.reservedReq 1)
    ∧ decode (.req10 0b00_1100_0101) = .ok (.cmd 0xC5)
    ∧ decode (.req10 0b01_0100_0001) = .ok (.data 0x41)
    ∧ decode (.bus9 0b0_0010_1000) = .ok .functionSet
    ∧ decode (.bus9 0b0_0011_0011) = .ok (.functionSetOther 0b10011)
    ∧ decode (.bus9 0b0_0001_0100) = .ok .cursorShiftRight
    ∧ decode (.bus9 0b0_0001_1000) = .ok .displayShiftLeft
    ∧ decode (.bus9 0b0_0000_1110) = .ok (.displayControl true true false)
    ∧ decode (.bus9 0b0_0000_0110) = .ok .entryModeSet
    ∧ decode (.bus9 0b0_0000_0001) = .ok .clearDisplay
    ∧ decode (.bus9 0b0_0101_1000) = .ok (.setCgramAddr 0x18)
    ∧ decode (.bus9 0b0_1100_0101) = .ok (.setDdramAddr 0x45)
    ∧ decode (.bus9 0b1_0100_0001) = .ok (.writeData 0x41)
    ∧ decode (.nib5 0b0_0011) = .ok .bootFuncset8bit
    ∧ decode (.nib5 0b0_0010) = .ok .switch4bit

/-! ### Ports -/

/-- R21, R23, R46: the status outputs' encodings, and the level of each physical line under an injective pin map; no line is
driven while OE = 0. -/
def Obligations.Outputs : Prop :=
  (∀ s : State,
      s.stateOut = (match s.fsm with | .uninit => 0 | .boot8 => 1 | .boot4 => 2 | .ready => 3 | .fault => 7)
        ∧ s.faultOut = decide (s.fsm = .fault)
        ∧ s.fcodeOut = (match s.fcode with | .none => 0 | .notReady => 1 | .reinit => 2 | .reservedReq => 3))
    ∧ (∀ s : State, s.oe = true → PinMap.injective s.cfg.pinMap = true →
        s.pinLevel s.cfg.pinMap.rs = some s.lineRs
          ∧ s.pinLevel s.cfg.pinMap.e = some s.lineE
          ∧ s.pinLevel s.cfg.pinMap.d0 = some (s.lineD.getLsbD 0)
          ∧ s.pinLevel s.cfg.pinMap.d1 = some (s.lineD.getLsbD 1)
          ∧ s.pinLevel s.cfg.pinMap.d2 = some (s.lineD.getLsbD 2)
          ∧ s.pinLevel s.cfg.pinMap.d3 = some (s.lineD.getLsbD 3))
    ∧ ∀ (s : State) (line : Nat), s.oe = false → s.pinLevel line = none

/-! ### Requests -/

/-- R24 (the spec's own decision D2): the formula of req_ready; a request at the port of a ready block is executed; one at a
block that is not ready stays; and the client presents its next word, in the list's order, only while req_ready = 1 (R135,
R198).  That req_valid falls at the acceptance, and when the client's emit is over, are the model's choice (log entry 11); that
some time passes at the acceptance is log entry 20. -/
def Obligations.RequestAcceptance : Prop :=
  (∀ s : State,
      s.reqReady = (decide (s.sched = .none) && decide (s.fsm ≠ .fault) && decide (s.rst = false)))
    ∧ (∀ s : State, s.host = [] → configLegal s.cfg = true → s.reqValid = true → s.reqReady = true →
        step s = andThen (exec (decodeReq s.reqWord) { s with reqValid := false, emitting := false })
          fun t => .next (elapse t))
    ∧ (∀ s t : State, s.host = [] → s.reqValid = true → s.reqReady = false → step s = .next t →
        t.reqValid = true ∧ t.reqWord = s.reqWord ∧ t.client = s.client)
    ∧ ∀ s t : State, s.host = [] → step s = .next t → t.client ≠ s.client →
        s.reqReady = true ∧ s.reqValid = false ∧ ∃ w, s.client = w :: t.client
          ∧ step s = andThen
            (exec (decodeReq w) { s with reqWord := w, client := t.client, emitting := true })
            fun u => .next (elapse u)

/-- R115: INIT in UNINIT.  The equation is its whole effect: nothing else changes. -/
def Obligations.InitStarts : Prop :=
  ∀ s : State, s.fsm = .uninit →
    exec .init s = .next { s with
      fsm := .boot8, sched := .init, step := 0, trace := s.trace ++ [(s.now, .state .boot8)] }

/-- R75, R115, R130, R180, R181: each request in each state that turns it away enters FAULT with its code.  The equations are
the whole effect: no line, no data-path register and no receiver component changes.  FAULT and its codes are the spec's own
decisions D15-D17 and D30. -/
def Obligations.FaultingRequests : Prop :=
  (∀ (w : BitVec 9) (s : State), exec (.reservedReq w) s = .next { s with
      fsm := .fault, fcode := .reservedReq, sched := .none, step := 0, trace := s.trace ++ [(s.now, .state .fault)] })
    ∧ (∀ s : State, s.fsm ≠ .uninit → exec .init s = .next { s with
        fsm := .fault, fcode := .reinit, sched := .none, step := 0, trace := s.trace ++ [(s.now, .state .fault)] })
    ∧ (∀ (b : Byte) (s : State), s.fsm ≠ .ready → exec (.cmd b) s = .next { s with
        fsm := .fault, fcode := .notReady, sched := .none, step := 0, trace := s.trace ++ [(s.now, .state .fault)] })
    ∧ ∀ (b : Byte) (s : State), s.fsm ≠ .ready → exec (.data b) s = .next { s with
        fsm := .fault, fcode := .notReady, sched := .none, step := 0, trace := s.trace ++ [(s.now, .state .fault)] }

/-- R100, R101: CMD and DATA in READY.  The equations are the whole effect of the acceptance. -/
def Obligations.ByteTransfersStart : Prop :=
  (∀ (b : Byte) (s : State), s.fsm = .ready → exec (.cmd b) s = .next { s with
      reqRs := false, reqByte := b, settle := settleOf s.cfg.longSet false b, sched := .tx, step := 0 })
    ∧ ∀ (b : Byte) (s : State), s.fsm = .ready → exec (.data b) s = .next { s with
        reqRs := true, reqByte := b, settle := .data, sched := .tx, step := 0 }

/-- R181: a step enters FAULT exactly when it accepts a request that has a cause, with the first cause's code and the entry of
R180.  The order of the causes is the spec's own decision D30; that req_valid falls at the acceptance and that time passes there
are log entries 11 and 20. -/
def Obligations.FaultOnlyAtAcceptance : Prop :=
  (∀ s t : State, s.fsm ≠ .fault → step s = .next t → t.fsm = .fault →
      ∃ u, envTurn s = .next u ∧ u.accepts = true ∧ faultCause u.reqWord u.fsm ≠ .none
        ∧ t = elapse (takeFault (faultCause u.reqWord u.fsm) { u with reqValid := false }))
    ∧ ∀ s u : State, envTurn s = .next u → configLegal u.cfg = true → u.accepts = true →
        faultCause u.reqWord u.fsm ≠ .none →
        step s = .next (elapse (takeFault (faultCause u.reqWord u.fsm) { u with reqValid := false }))

/-- R189 (the spec's own decision D17): FAULT accepts nothing and changes nothing, whatever stands at the port, until rst; the
receiver keeps its state once the bus has been driven. -/
def Obligations.FaultIsSticky : Prop :=
  ∀ s u t : State, s.fsm = .fault → s.sched = .none → envTurn s = .next u → step s = .next t →
    (u.rst = false →
        t.fsm = .fault ∧ t.fcode = s.fcode ∧ t.faultOut = true ∧ t.reqReady = false ∧ t.sched = .none
          ∧ t.oe = s.oe ∧ t.lineRs = s.lineRs ∧ t.lineE = s.lineE ∧ t.lineD = s.lineD
          ∧ t.reqRs = s.reqRs ∧ t.reqByte = s.reqByte ∧ t.settle = s.settle
          ∧ t.trace = s.trace ∧ t.latched = s.latched ∧ (s.oe = true → t.rx = s.rx)
          ∧ t.reqValid = u.reqValid ∧ t.reqWord = u.reqWord)
      ∧ (u.rst = true → t.fsm = .uninit ∧ t.fcode = .none ∧ t.faultOut = false)

/-! ### Reset -/

/-- R200 (the spec's own decision D18): what holds while rst = 1, also when it rises inside a wait, inside a schedule or
inside a single nibble's group; and that the block is ready for a request when it falls.  That the trace and the latched stream
are kept is the model's choice (log entry 10), and so is the group as one step with the environment's turns inside it (log
entry 13). -/
def Obligations.ResetHolds : Prop :=
  (∀ s u : State, envTurn s = .next u → configLegal u.cfg = true → u.rst = true →
      ∃ t, step s = .next t
        ∧ t.fsm = .uninit ∧ t.sched = .none ∧ t.step = 0 ∧ t.fcode = .none ∧ t.oe = false ∧ t.waitRem = 0
        ∧ t.waitFrom = none ∧ t.reqReady = false ∧ (∀ line, t.pinLevel line = none)
        ∧ t.trace = s.trace ∧ t.latched = s.latched ∧ t.cfg = s.cfg
        ∧ t.rx = Receiver.unknown t.powerUp
        ∧ ({ t with rst := false } : State).reqReady = true)
    ∧ ∀ (p q : Phase) (rest : List Phase) (s u v : State),
        runPhase p s = .next u → envTurn u = .next v → v.rst = true →
        runGroup (p :: q :: rest) s = .next (holdReset v)

/-- R25, R33, R35: the values the spec gives for reset, in State.reset.  The registers R35 leaves unspecified are not stated
(log entry 2); that power was applied at the reset instant is the model's choice, so XEND is stated from the power-up time
(log entry 12). -/
def Obligations.ResetState : Prop :=
  AtReset State.reset
    ∧ State.reset.reqReady = true ∧ State.reset.faultOut = false ∧ State.reset.stateOut = 0 ∧ State.reset.fcodeOut = 0
    ∧ State.reset.rx.ifmode = none ∧ State.reset.rx.nibhi = none ∧ State.reset.rx.target = none
    ∧ State.reset.rx.ac = none ∧ State.reset.rx.disp = none ∧ State.reset.rx.cur = none ∧ State.reset.rx.blink = none
    ∧ State.reset.rx.entry = none ∧ State.reset.rx.func = none ∧ State.reset.rx.shift = none
    ∧ (∀ a, State.reset.rx.mem.ddAt a = .unknown) ∧ (∀ a, State.reset.rx.mem.cgAt a = none)
    ∧ State.reset.rx.xend = State.reset.powerUp + 15000000

/-! ### A step runs what it fetches -/

/-- R24, R67, R187: a step that finds an acceptable request at the port executes the instruction its word decodes to; around
it, req_valid falls and some time passes (log entries 11 and 20). -/
def Obligations.StepRunsRequest : Prop :=
  ∀ (s u : State) (i : Instr), envTurn s = .next u → configLegal u.cfg = true → u.accepts = true →
    decode (.req10 u.reqWord) = .ok i →
    step s = andThen (exec i { u with reqValid := false }) fun t => .next (elapse t)

/-- R17, R69, R117: inside a schedule a step runs the single-nibble instruction whose group begins at pc, and otherwise the
phase due of the micro-operation at pc.  Those rules give one micro-operation at a time: that one step runs a whole group (log
entry 13), and that a WAIT takes two phases (log entry 9), are the model's choices. -/
def Obligations.StepRunsSchedule : Prop :=
  (∀ (s u : State) (w : BitVec 5) (i : Instr), envTurn s = .next u → configLegal u.cfg = true → u.rst = false →
      nibbleAt u = some w → decode (.nib5 w) = .ok i → step s = exec i u)
    ∧ ∀ (s u : State) (m : Micro), envTurn s = .next u → configLegal u.cfg = true → u.rst = false →
        u.sched.steps[u.step]? = some m → nibbleAt u = none → step s = runPhase (m.duePhase u) u

/-- R153, R154, R156: at a falling edge of E on a driven bus the step executes the instruction that the byte formed there
decodes to.  In 4-bit framing the first nibble is stored and the second completes the byte; in 8-bit framing the nibble is
the high half and the low half a free value.  The three framings, execution at the second nibble alone and the open low half
are general knowledge in R153 and R154 (log entry 18), modelled by draws (log entry 8). -/
def Obligations.StepRunsFormedByte : Prop :=
  (∀ (s u : State) (h : Nibble) (i : Instr), envTurn s = .next u → configLegal u.cfg = true → u.rst = false →
      u.sched.steps[u.step]? = some .eLo → u.oe = true →
      u.rx.ifmode = some .m4l → u.rx.nibhi = some h →
      decode (.bus9 (busWord u.lineRs (byteOf h u.lineD))) = .ok i →
      step s = andThen (exec i { dropE u with rx := { u.rx with ifmode := some .m4h } })
        fun t => .next (elapse (advance t)))
    ∧ (∀ (s u : State) (i : Instr), envTurn s = .next u → configLegal u.cfg = true → u.rst = false →
        u.sched.steps[u.step]? = some .eLo → u.oe = true → u.rx.ifmode = some .m8 →
        decode (.bus9 (busWord u.lineRs (byteOf u.lineD (Config.freeNibble u.draws)))) = .ok i →
        step s = andThen (exec i { dropE u with draws := u.draws + 1 }) fun t => .next (elapse (advance t)))
    ∧ ∀ s u : State, envTurn s = .next u → configLegal u.cfg = true → u.rst = false →
        u.sched.steps[u.step]? = some .eLo → u.oe = true → u.rx.ifmode = some .m4h →
        step s = .next (elapse (advance
          { dropE u with rx := { u.rx with nibhi := some u.lineD, ifmode := some .m4l } }))

/-! ### Micro-operations -/

/-- R89, R90, R91: SET_RS, SET_D and E_HI.  The equations are the whole effect, its duration apart; and in both schedules each
of the three runs only where E is 0. -/
def Obligations.LineMicroOperations : Prop :=
  (∀ (v : Bool) (s : State), microEffect (.setRs (.level v)) s =
      .next { s with lineRs := v, trace := s.trace ++ [(s.now, .lineRs v)] })
    ∧ (∀ s : State, microEffect (.setRs .reqRs) s =
        .next { s with lineRs := s.reqRs, trace := s.trace ++ [(s.now, .lineRs s.reqRs)] })
    ∧ (∀ (n : Nibble) (s : State), microEffect (.setD (.const n)) s =
        .next { s with lineD := n, trace := s.trace ++ [(s.now, .dataLines n)] })
    ∧ (∀ s : State, microEffect (.setD .hiReq) s =
        .next { s with lineD := hi s.reqByte, trace := s.trace ++ [(s.now, .dataLines (hi s.reqByte))] })
    ∧ (∀ s : State, microEffect (.setD .loReq) s =
        .next { s with lineD := lo s.reqByte, trace := s.trace ++ [(s.now, .dataLines (lo s.reqByte))] })
    ∧ (∀ s : State, microEffect .eHi s = .next { s with lineE := true, trace := s.trace ++ [(s.now, .lineE true)] })
    ∧ (∀ (c : Sched) (v : RsOperand), .setRs v ∈ c.steps → v = .level false ∨ v = .reqRs)
    ∧ ∀ (c : Sched) (k : Nat) (m : Micro), c.steps[k]? = some m →
        (m = .eHi ∨ (∃ v, m = .setRs v) ∨ ∃ n, m = .setD n) → levelAfter (c.steps.take k) = false

/-- R88, R94, R95: CFG, LOAD and SET_FSM.  CFG's initial levels are the spec's own decision D4. -/
def Obligations.RegisterMicroOperations : Prop :=
  (∀ s : State, microEffect .cfg s =
      .next { s with lineRs := false, lineE := false, lineD := 0, oe := true, trace := s.trace ++ [(s.now, .cfg)] })
    ∧ (∀ (rs : Bool) (b : Byte) (s : State), microEffect (.load rs b) s =
        .next { s with reqRs := rs, reqByte := b, settle := settleOf s.cfg.longSet rs b })
    ∧ (∀ (f : Fsm) (s : State), microEffect (.setFsm f) s =
        .next { s with fsm := f, trace := s.trace ++ [(s.now, .state f)] })
    ∧ (∀ (c : Sched) (f : Fsm), .setFsm f ∈ c.steps → f = .boot4 ∨ f = .ready)
    ∧ ∀ (m : Micro) (s t : State), (∀ f, m ≠ .setFsm f) → microEffect m s = .next t → t.fsm = s.fsm

/-- R47: the falling edge of E.  The pair (LINE_RS, LINE_D) joins the latched stream at this micro-operation and no other, and
no other lets the receiver change.  That with OE = 0 nothing joins the stream and the receiver stays is inferred from R21, R47
and R174 (log entry 26). -/
def Obligations.FallingEdgeLatches : Prop :=
  (∀ s t : State, microEffect .eLo s = .next t →
      t = { s with
        lineE := false, trace := s.trace ++ [(s.now, .lineE false)]
        latched := if s.oe then s.latched ++ [(s.lineRs, s.lineD)] else s.latched
        rx := t.rx, draws := t.draws }
      ∧ (s.oe = false → t.rx = s.rx))
    ∧ ∀ (m : Micro) (s t : State), m ≠ .eLo → microEffect m s = .next t → t.latched = s.latched ∧ t.rx = s.rx

/-- R22, R93 (R22 is the spec's own decision D6): a wait of t that begins in s and, after any moves of the environment, ends,
lasts at least t, leaves WAIT_REM at 0, and changes no line.  That Wait(t, d) carries the time at which the wait began, with d
the time it took, and joins the trace at the wait's end is the model's choice (log entry 9). -/
def Obligations.WaitLasts : Prop :=
  ∀ (t : Nat) (s e : State),
    e = { waitBegin t s with
      rst := e.rst, reqValid := e.reqValid, reqWord := e.reqWord, client := e.client, emitting := e.emitting
      host := e.host } →
    s.now + t ≤ (waitEnd t e).now
      ∧ (waitEnd t e).waitRem = 0 ∧ (waitEnd t e).waitFrom = none
      ∧ (waitEnd t e).trace = s.trace ++ [(s.now, .wait t ((waitEnd t e).now - s.now))]
      ∧ (waitEnd t e).lineRs = s.lineRs ∧ (waitEnd t e).lineE = s.lineE ∧ (waitEnd t e).lineD = s.lineD
      ∧ (waitEnd t e).oe = s.oe ∧ (waitEnd t e).rx = s.rx

/-- R9 (the spec's own decision D31): a configuration below a floor of R6, with a pin map that is not injective, or whose long
set lacks 0x01, has no step. -/
def Obligations.IllegalConfigRefused : Prop :=
  ∀ s : State,
    (s.cfg.tPowerup < 15000000 ∨ s.cfg.tBoot1 < 4100000 ∨ s.cfg.tBoot2 < 100000 ∨ s.cfg.tBoot3 < 100000
      ∨ s.cfg.tSwitch < s.cfg.tExec ∨ s.cfg.tAs < 40 ∨ s.cfg.tPw < 450 ∨ s.cfg.tH < 50 ∨ s.cfg.tExec < 37000
      ∨ s.cfg.tData < 37000 ∨ s.cfg.tClear < 1520000
      ∨ ¬[s.cfg.pinMap.rs, s.cfg.pinMap.e, s.cfg.pinMap.d0, s.cfg.pinMap.d1, s.cfg.pinMap.d2, s.cfg.pinMap.d3].Nodup
      ∨ 0x01 ∉ s.cfg.longSet) →
    (∀ t, step s ≠ .next t) ∧ ∀ u, envTurn s = .next u → step s = .refused .illegalConfig

/-! ### The receiver's instructions

Each equation is the instruction's whole effect on a receiver that is ready: what it does not name stays. -/

/-- R157: FUNCTION_SET, with its encoding, its settle class, and its one place in the INIT schedule. -/
def Obligations.FunctionSet : Prop :=
  encode .functionSet = .bus9 0x028
    ∧ settleOf Config.initial.longSet false 0x28 = .short
    ∧ (∀ s : State, s.rx.xend ≤ s.now → exec .functionSet s = .next { s with
        rx := { s.rx with ifmode := some .m4h, func := some .f28, xend := s.now + Config.rExec false 0x28 } })
    ∧ (∀ s : State, s.rx.xend ≤ s.now → s.rx.ifmode = some .m4h → s.rx.func = some .f28 →
        exec .functionSet s = .next { s with rx := { s.rx with xend := s.now + Config.rExec false 0x28 } })
    ∧ (∀ s : State, s.rx.ifmode = some .m4l → s.rx.nibhi = some 0x2 →
        rxLatch false 0x8 s = exec .functionSet { s with rx := { s.rx with ifmode := some .m4h } })
    ∧ initSchedule.count (.load false 0x28) = 1 ∧ initSchedule[33]? = some (.load false 0x28)

/-- R158: FUNCTION_SET_OTHER; reading b[4] as the interface length is the spec's general knowledge, and the effect on the rest
its decision D40. -/
def Obligations.FunctionSetOther : Prop :=
  ∀ (x : BitVec 5) (s : State), s.rx.xend ≤ s.now → exec (.functionSetOther x) s = .next { s with
    rx := { s.rx with
      ifmode := some (if x.getLsbD 4 then .m8 else .m4h)
      target := none, ac := none, disp := none, cur := none, blink := none, entry := none, shift := none, func := none
      xend := s.now + Config.rExec false (0b001#3 ++ x) } }

/-- R163, R164, and the calls that emit them (R145, R146; as word lists, log entry 17): the cursor shifts, whose direction is
the spec's general knowledge (D28, log entry 18).  AC moves inside a row and is
unknown otherwise, also where TARGET or AC was unknown (log entry 15). -/
def Obligations.CursorShifts : Prop :=
  ApiCall.cursorLeft.requests = [0x010] ∧ ApiCall.cursorRight.requests = [0x014]
    ∧ decodeByte 0x10 = .cursorShiftLeft ∧ decodeByte 0x14 = .cursorShiftRight
    ∧ (∀ (s : State) (a : BitVec 7), s.rx.xend ≤ s.now → s.rx.target = some .dd → s.rx.ac = some a → Vis a →
      0 < a.toNat % 0x40 → exec .cursorShiftLeft s = .next { s with
        rx := { s.rx with ac := some (a - 1), xend := s.now + Config.rExec false 0x10 } })
    ∧ (∀ s : State, s.rx.xend ≤ s.now →
        (¬∃ a, s.rx.target = some .dd ∧ s.rx.ac = some a ∧ Vis a ∧ 0 < a.toNat % 0x40) →
        exec .cursorShiftLeft s = .next { s with
          rx := { s.rx with ac := none, xend := s.now + Config.rExec false 0x10 } })
    ∧ (∀ (s : State) (a : BitVec 7), s.rx.xend ≤ s.now → s.rx.target = some .dd → s.rx.ac = some a → Vis a →
        a.toNat % 0x40 < 15 → exec .cursorShiftRight s = .next { s with
          rx := { s.rx with ac := some (a + 1), xend := s.now + Config.rExec false 0x14 } })
    ∧ ∀ s : State, s.rx.xend ≤ s.now →
        (¬∃ a, s.rx.target = some .dd ∧ s.rx.ac = some a ∧ Vis a ∧ a.toNat % 0x40 < 15) →
        exec .cursorShiftRight s = .next { s with
          rx := { s.rx with ac := none, xend := s.now + Config.rExec false 0x14 } }

/-- R165, R166, and the calls that emit them (R147, R148; as word lists, log entry 17): the display shifts, whose direction is
the spec's general knowledge (D28, log entry 18); a left shift and then a right shift give SHIFT back. -/
def Obligations.DisplayShifts : Prop :=
  ApiCall.shiftDisplayLeft.requests = [0x018] ∧ ApiCall.shiftDisplayRight.requests = [0x01C]
    ∧ decodeByte 0x18 = .displayShiftLeft ∧ decodeByte 0x1C = .displayShiftRight
    ∧ (∀ s : State, s.rx.xend ≤ s.now → exec .displayShiftLeft s = .next { s with
      rx := { s.rx with shift := s.rx.shift.map (· + 1), xend := s.now + Config.rExec false 0x18 } })
    ∧ (∀ s : State, s.rx.xend ≤ s.now → exec .displayShiftRight s = .next { s with
        rx := { s.rx with shift := s.rx.shift.map (· - 1), xend := s.now + Config.rExec false 0x1C } })
    ∧ ∀ s t u v : State, exec .displayShiftLeft s = .next t → u.rx = t.rx → exec .displayShiftRight u = .next v →
        v.rx.shift = s.rx.shift

/-- R159: DISPLAY_CONTROL, and the call that emits it (R144; as a word list, log entry 17); which of b[1] and b[0] is the cursor
is the spec's general knowledge (R71, log entry 18). -/
def Obligations.DisplayControl : Prop :=
  (∀ c k : Bool, (ApiCall.setCursorVisibility c k).requests =
      [0b00000011#8 ++ BitVec.ofBool c ++ BitVec.ofBool k])
    ∧ (∀ d c k : Bool, decodeByte (0b00001#5 ++ BitVec.ofBool d ++ BitVec.ofBool c ++ BitVec.ofBool k) =
      .displayControl d c k)
    ∧ ∀ (d c k : Bool) (s : State), s.rx.xend ≤ s.now → exec (.displayControl d c k) s = .next { s with
    rx := { s.rx with
      disp := some d, cur := some c, blink := some k
      xend := s.now + Config.rExec false (0b00001#5 ++ BitVec.ofBool d ++ BitVec.ofBool c ++ BitVec.ofBool k) } }

/-- R161: ENTRY_MODE_SET, with its encoding and settle class; and while ENTRY is what it sets, each data write advances AC by
one and leaves ENTRY and SHIFT: a DDRAM write always, a CGRAM write below address 0x3F, past which R170 makes AC unknown. -/
def Obligations.EntryModeSet : Prop :=
  encode .entryModeSet = .bus9 0x006
    ∧ settleOf Config.initial.longSet false 0x06 = .short
    ∧ (∀ s : State, s.rx.xend ≤ s.now → exec .entryModeSet s = .next { s with
        rx := { s.rx with entry := some .incNoShift, xend := s.now + Config.rExec false 0x06 } })
    ∧ (∀ (s t : State) (a : BitVec 7) (b : Byte), s.rx.entry = some .incNoShift → s.rx.target = some .dd →
        s.rx.ac = some a → exec (.writeData b) s = .next t →
        t.rx.ac = some (a + 1) ∧ t.rx.shift = s.rx.shift ∧ t.rx.entry = some .incNoShift)
    ∧ ∀ (s t : State) (a : BitVec 7) (b : Byte), s.rx.entry = some .incNoShift → s.rx.target = some .cg →
        s.rx.ac = some a → exec (.writeData b) s = .next t →
        t.rx.ac = (if a.toNat < 0x3F then some (a + 1) else none) ∧ t.rx.shift = s.rx.shift
          ∧ t.rx.entry = some .incNoShift

/-- R162, R167, R171, R172, R176: the unlisted bytes outside the function sets leave eight components unknown and the
memories and IFMODE as they were (the spec's decision D40). -/
def Obligations.UnlistedBytes : Prop :=
  (∀ (x : BitVec 4) (s : State), s.rx.xend ≤ s.now → exec (.shiftOther x) s = .next { s with
      rx := { s.rx with
        target := none, ac := none, disp := none, cur := none, blink := none, entry := none, shift := none, func := none
        xend := s.now + Config.rExec false (0b0001#4 ++ x) } })
    ∧ (∀ (x : BitVec 2) (s : State), s.rx.xend ≤ s.now → exec (.entryModeOther x) s = .next { s with
        rx := { s.rx with
          target := none, ac := none, disp := none, cur := none, blink := none, entry := none, shift := none
          func := none, xend := s.now + Config.rExec false (0b000001#6 ++ x) } })
    ∧ (∀ (x : Bool) (s : State), s.rx.xend ≤ s.now → exec (.instr02Or03 x) s = .next { s with
        rx := { s.rx with
          target := none, ac := none, disp := none, cur := none, blink := none, entry := none, shift := none
          func := none, xend := s.now + Config.rExec false (0b0000001#7 ++ BitVec.ofBool x) } })
    ∧ ∀ s : State, s.rx.xend ≤ s.now → exec .instr00 s = .next { s with
        rx := { s.rx with
          target := none, ac := none, disp := none, cur := none, blink := none, entry := none, shift := none
          func := none, xend := s.now + Config.rExec false 0x00 } }

/-- R160: CLEAR_DISPLAY (that it clears SHIFT is the spec's general knowledge).  Every DDRAM cell reads BLANK, every CGRAM byte
as before; a second clear changes nothing but XEND. -/
def Obligations.ClearDisplay : Prop :=
  (∀ s : State, s.rx.xend ≤ s.now → ∃ t, exec .clearDisplay s = .next t
      ∧ t = { s with
        rx := { s.rx with
          mem := t.rx.mem, target := some .dd, ac := some 0, shift := some 0
          xend := s.now + Config.rExec false 0x01 } }
      ∧ (∀ a, t.rx.mem.ddAt a = .blank) ∧ ∀ a, t.rx.mem.cgAt a = s.rx.mem.cgAt a)
    ∧ ∀ s t u v : State, exec .clearDisplay s = .next t → u.rx = t.rx → exec .clearDisplay u = .next v →
        v.rx = { t.rx with xend := v.rx.xend }

/-- R168, R169: the address instructions, each idempotent; every slot base is a legal CGRAM address; an address outside VIS is
accepted and a data write there refuses; gotoXY emits only addresses in VIS. -/
def Obligations.SetAddresses : Prop :=
  (∀ a : BitVec 6, decodeByte (0b01#2 ++ a) = .setCgramAddr a) ∧ (∀ a : BitVec 7, decodeByte (1#1 ++ a) = .setDdramAddr a)
    ∧ (∀ (a : BitVec 6) (s : State), s.rx.xend ≤ s.now → exec (.setCgramAddr a) s = .next { s with
      rx := { s.rx with
        target := some .cg, ac := some (a.setWidth 7), xend := s.now + Config.rExec false (0b01#2 ++ a) } })
    ∧ (∀ (a : BitVec 6) (b : Byte) (s t u v : State), exec (.setCgramAddr a) s = .next t → u.rx = t.rx →
        exec (.writeData b) u = .next v → v.rx.mem.cgAt a = some b ∧ ∀ a', v.rx.mem.ddAt a' = t.rx.mem.ddAt a')
    ∧ (∀ (a : BitVec 7) (s : State), s.rx.xend ≤ s.now → exec (.setDdramAddr a) s = .next { s with
        rx := { s.rx with target := some .dd, ac := some a, xend := s.now + Config.rExec false (1#1 ++ a) } })
    ∧ (∀ (a : BitVec 6) (s t u v : State), exec (.setCgramAddr a) s = .next t → u.rx = t.rx →
        exec (.setCgramAddr a) u = .next v → v.rx = { t.rx with xend := v.rx.xend })
    ∧ (∀ (a : BitVec 7) (s t u v : State), exec (.setDdramAddr a) s = .next t → u.rx = t.rx →
        exec (.setDdramAddr a) u = .next v → v.rx = { t.rx with xend := v.rx.xend })
    ∧ (∀ slot : Nat, slot < 8 → decodeByte (BitVec.ofNat 8 (0x40 + 8 * slot)) = .setCgramAddr (BitVec.ofNat 6 (8 * slot)))
    ∧ (∀ (a : BitVec 7) (b : Byte) (s t u : State), exec (.setDdramAddr a) s = .next t → ¬Vis a → u.rx = t.rx →
        u.rx.xend ≤ u.now → exec (.writeData b) u = .refused .outsidePositions)
    ∧ (∀ b : Byte, settleOf Config.initial.longSet false (b ||| 0x40) = .short
        ∧ settleOf Config.initial.longSet false (b ||| 0x80) = .short)
    ∧ ∀ column row : Nat, (ApiCall.gotoXY column row).requests = []
        ∨ ∃ a, Vis a ∧ (ApiCall.gotoXY column row).requests = [cmdWord (1#1 ++ a)]

/-- R170: WRITE_DATA to a visible DDRAM address.  The one cell holds the byte, every other cell and every CGRAM byte stays, AC
advances under the entry mode and is unknown without it. -/
def Obligations.WriteDataDdram : Prop :=
  ∀ (b : Byte) (a : BitVec 7) (s : State), s.rx.xend ≤ s.now → s.rx.target = some .dd → s.rx.ac = some a → Vis a →
    ∃ t, exec (.writeData b) s = .next t
      ∧ t.rx.mem.ddAt a = .byte b
      ∧ (∀ a', a' ≠ a → t.rx.mem.ddAt a' = s.rx.mem.ddAt a')
      ∧ (∀ c, t.rx.mem.cgAt c = s.rx.mem.cgAt c)
      ∧ t.rx.ac = (if s.rx.entry = some .incNoShift then some (a + 1) else none)
      ∧ t = { s with
        rx := { s.rx with mem := t.rx.mem, ac := t.rx.ac, xend := s.now + Config.rExec true b } }

/-- R170: WRITE_DATA to CGRAM.  The byte at AC[5:0] is written, all eight bits of it (R178), every other CGRAM byte and every
DDRAM cell stays, AC advances up to 0x3F and is unknown past it. -/
def Obligations.WriteDataCgram : Prop :=
  ∀ (b : Byte) (a : BitVec 7) (s : State), s.rx.xend ≤ s.now → s.rx.target = some .cg → s.rx.ac = some a →
    ∃ t, exec (.writeData b) s = .next t
      ∧ t.rx.mem.cgAt (a.extractLsb' 0 6) = some b
      ∧ (∀ c, c ≠ a.extractLsb' 0 6 → t.rx.mem.cgAt c = s.rx.mem.cgAt c)
      ∧ (∀ a', t.rx.mem.ddAt a' = s.rx.mem.ddAt a')
      ∧ t.rx.ac = (if a.toNat < 0x3F then some (a + 1) else none)
      ∧ t = { s with
        rx := { s.rx with mem := t.rx.mem, ac := t.rx.ac, xend := s.now + Config.rExec true b } }

/-- R170: where WRITE_DATA refuses (the spec's own decision D22): an unknown TARGET or AC, and a DDRAM address outside the
16x2 positions. -/
def Obligations.WriteDataRefuses : Prop :=
  (∀ (b : Byte) (s : State), s.rx.xend ≤ s.now → (s.rx.target = none ∨ s.rx.ac = none) →
      exec (.writeData b) s = .refused .unknownAddress)
    ∧ ∀ (b : Byte) (a : BitVec 7) (s : State), s.rx.xend ≤ s.now → s.rx.target = some .dd → s.rx.ac = some a →
        ¬Vis a → exec (.writeData b) s = .refused .outsidePositions

/-- R156: the execution of one transfer: a busy receiver refuses; a ready one executes the instruction, RS = 1 as WRITE_DATA
and RS = 0 by the class of the byte's leading one, and is then busy for R_EXEC. -/
def Obligations.TransferExecution : Prop :=
  (∀ (rs : Bool) (b : Byte) (s : State), s.now < s.rx.xend → rxExec rs b s = .refused .receiverBusy)
    ∧ (∀ (rs : Bool) (b : Byte) (s : State), rxExec rs b s = exec (decodeBus (busWord rs b)) s)
    ∧ (∀ (rs : Bool) (b : Byte) (s t : State), rxExec rs b s = .next t →
        s.rx.xend ≤ s.now ∧ t.rx.xend = s.now + Config.rExec rs b ∧ t = { s with rx := t.rx })
    ∧ (∀ b : Byte, decodeBus (busWord true b) = .writeData b)
    ∧ (∀ a : BitVec 7, decodeBus (busWord false (1#1 ++ a)) = .setDdramAddr a)
    ∧ (∀ a : BitVec 6, decodeBus (busWord false (0b01#2 ++ a)) = .setCgramAddr a)
    ∧ (∀ x : BitVec 5, decodeBus (busWord false (0b001#3 ++ x)) =
        if x = 0b01000 then .functionSet else .functionSetOther x)
    ∧ (∀ x : BitVec 4, decodeBus (busWord false (0b0001#4 ++ x)) =
        if x = 0b0000 then .cursorShiftLeft else if x = 0b0100 then .cursorShiftRight
        else if x = 0b1000 then .displayShiftLeft else if x = 0b1100 then .displayShiftRight else .shiftOther x)
    ∧ (∀ d c k : Bool, decodeBus (busWord false
        (0b00001#5 ++ BitVec.ofBool d ++ BitVec.ofBool c ++ BitVec.ofBool k)) = .displayControl d c k)
    ∧ (∀ x : BitVec 2, decodeBus (busWord false (0b000001#6 ++ x)) =
        if x = 0b10 then .entryModeSet else .entryModeOther x)
    ∧ (∀ x : Bool, decodeBus (busWord false (0b0000001#7 ++ BitVec.ofBool x)) = .instr02Or03 x)
    ∧ decodeBus (busWord false 0x01) = .clearDisplay ∧ decodeBus (busWord false 0x00) = .instr00

/-- R176: no instruction byte writes CGRAM, none but clear writes DDRAM, and none but a function set changes the interface
mode (the spec's general knowledge). -/
def Obligations.InstructionBytesKeepMemory : Prop :=
  ∀ (b : Byte) (s t : State), rxExec false b s = .next t →
    t.rx.mem.cg = s.rx.mem.cg
      ∧ (b ≠ 0x01 → t.rx.mem = s.rx.mem)
      ∧ (b &&& 0xE0 ≠ 0x20 → t.rx.ifmode = s.rx.ifmode)

/-! ### The bootstrap -/

/-- R155 (the spec's own derivation): from every receiver state and every draw, the four single nibbles of the INIT schedule
leave 8-bit framing after the third and 4-bit framing after the fourth, and both memories as they were; and with RS = 0 a
latch at a ready receiver always answers. -/
def Obligations.BootstrapConverges : Prop :=
  (∀ s1 s2 s3 s4 t1 t2 t3 t4 : State,
      rxLatch false 3 s1 = .next t1 → s2.rx = t1.rx →
      rxLatch false 3 s2 = .next t2 → s3.rx = t2.rx →
      rxLatch false 3 s3 = .next t3 → s4.rx = t3.rx →
      rxLatch false 2 s4 = .next t4 →
      t3.rx.ifmode = some .m8 ∧ t4.rx.ifmode = some .m4h ∧ t4.rx.mem = s1.rx.mem)
    ∧ ∀ (n : Nibble) (s : State), s.rx.xend ≤ s.now → ∃ t, rxLatch false n s = .next t

/-- R119, R121: BOOT_FUNCSET_8BIT at each of its three places, with the host idle and the receiver ready, runs its seven steps:
the nibble 3 with RS = 0, one pulse, and the wait that follows that pulse.  The model's choices: the group is one exec (log entry
13), and the wait is told from STEP (log entry 21).  That both memories are kept and 8-bit framing stays rests on R154, R158 and
R176, the spec's general knowledge (log entry 18). -/
def Obligations.BootPulseCompletes : Prop :=
  ∀ s : State, s.host = [] → s.rst = false → s.sched = .init → (s.step = 4 ∨ s.step = 11 ∨ s.step = 18) →
    s.oe = true → s.lineRs = false → s.rx.xend ≤ s.now →
    ∃ t, exec .bootFuncset8bit s = .next t
      ∧ t.sched = .init ∧ t.step = s.step + 7 ∧ t.fsm = s.fsm ∧ t.fcode = s.fcode ∧ t.cfg = s.cfg ∧ t.rst = false
      ∧ t.lineRs = false ∧ t.lineE = false ∧ t.lineD = 0x3 ∧ t.oe = true ∧ t.waitRem = 0 ∧ t.waitFrom = none
      ∧ t.reqRs = s.reqRs ∧ t.reqByte = s.reqByte ∧ t.settle = s.settle
      ∧ t.latched = s.latched ++ [(false, 0x3)]
      ∧ written t.trace = written s.trace ++
        [.dataLines 0x3, .wait s.cfg.tDsu 0, .lineE true, .wait s.cfg.tPw 0, .lineE false, .wait s.cfg.tH 0,
          .wait (if s.step = 4 then s.cfg.tBoot1 else if s.step = 11 then s.cfg.tBoot2 else s.cfg.tBoot3) 0]
      ∧ s.now + s.cfg.tDsu + s.cfg.tPw + s.cfg.tH
          + (if s.step = 4 then s.cfg.tBoot1 else if s.step = 11 then s.cfg.tBoot2 else s.cfg.tBoot3) ≤ t.now
      ∧ t.rx.mem = s.rx.mem
      ∧ (s.rx.ifmode = some .m8 → t.rx.ifmode = some .m8)

/-- R120: SWITCH_4BIT, with the host idle and the receiver ready, runs its eight steps: FSM becomes BOOT4, the nibble 2 with
RS = 0, one pulse, and P_T_SWITCH; an 8-bit receiver is then in 4-bit framing.  That the group is one exec is the model's choice
(log entry 13).  That both memories are kept and the framing becomes 4-bit rests on R154, R157, R158 and R176, the spec's general
knowledge (log entry 18). -/
def Obligations.SwitchCompletes : Prop :=
  ∀ s : State, s.host = [] → s.rst = false → s.sched = .init → s.step = 25 →
    s.oe = true → s.lineRs = false → s.rx.xend ≤ s.now →
    ∃ t, exec .switch4bit s = .next t
      ∧ t.sched = .init ∧ t.step = 33 ∧ t.fsm = .boot4 ∧ t.fcode = s.fcode ∧ t.cfg = s.cfg ∧ t.rst = false
      ∧ t.lineRs = false ∧ t.lineE = false ∧ t.lineD = 0x2 ∧ t.oe = true ∧ t.waitRem = 0 ∧ t.waitFrom = none
      ∧ t.reqRs = s.reqRs ∧ t.reqByte = s.reqByte ∧ t.settle = s.settle
      ∧ t.latched = s.latched ++ [(false, 0x2)]
      ∧ written t.trace = written s.trace ++
        [.state .boot4, .dataLines 0x2, .wait s.cfg.tDsu 0, .lineE true, .wait s.cfg.tPw 0, .lineE false,
          .wait s.cfg.tH 0, .wait s.cfg.tSwitch 0]
      ∧ s.now + s.cfg.tDsu + s.cfg.tPw + s.cfg.tH + s.cfg.tSwitch ≤ t.now
      ∧ t.rx.mem = s.rx.mem
      ∧ (s.rx.ifmode = some .m8 → t.rx.ifmode = some .m4h)

/-! ### Schedules -/

/-- R102, R104, R105, R108, R117: the fifteen steps of the TX schedule and what they put on the bus for every byte and RS value;
the 114 steps of the INIT schedule, in the order of R117's table; the least duration of each WAIT; how STEP moves, and where both
schedules end.  E is low and stays low until the power-up wait is over (R118), and init transfer 2 is display off, whose byte
0x08 is the spec's own derivation (R123). -/
def Obligations.TxSchedule : Prop :=
  Sched.steps .tx =
      [.setRs .reqRs, .wait .rsSetup, .setD .hiReq, .wait .dataSetup, .eHi, .wait .pulseWidth, .eLo, .wait .hold,
        .setD .loReq, .wait .dataSetup, .eHi, .wait .pulseWidth, .eLo, .wait .hold, .wait .settle]
    ∧ (∀ (rs l : Bool) (b : Byte) (d : Nibble),
        (pathAfter rs b l d txSchedule).out = [(rs, hi b), (rs, lo b)]
          ∧ (pathAfter rs b l d txSchedule).rs = rs ∧ (pathAfter rs b l d txSchedule).d = lo b)
    ∧ Sched.steps .init =
      [.cfg, .wait .powerup, .setRs (.level false), .wait .rsSetup,
          .setD (.const 0x3), .wait .dataSetup, .eHi, .wait .pulseWidth, .eLo, .wait .hold, .wait .boot1,
          .setD (.const 0x3), .wait .dataSetup, .eHi, .wait .pulseWidth, .eLo, .wait .hold, .wait .boot2,
          .setD (.const 0x3), .wait .dataSetup, .eHi, .wait .pulseWidth, .eLo, .wait .hold, .wait .boot3,
          .setFsm .boot4, .setD (.const 0x2), .wait .dataSetup, .eHi, .wait .pulseWidth, .eLo, .wait .hold,
          .wait .switch]
        ++ .load false 0x28 :: Sched.steps .tx ++ .load false 0x08 :: Sched.steps .tx
        ++ .load false 0x01 :: Sched.steps .tx ++ .load false 0x06 :: Sched.steps .tx
        ++ .load false 0x0C :: Sched.steps .tx ++ [.setFsm .ready]
    ∧ (Sched.steps .init).length = 114
    ∧ (Sched.steps .init)[49]? = some (.load false 0x08) ∧ settleOf Config.initial.longSet false 0x08 = .short
    ∧ (∀ k, k ≤ 4 → levelAfter ((Sched.steps .init).take k) = false)
    ∧ (∀ s : State, WaitOperand.value s .powerup = s.cfg.tPowerup ∧ WaitOperand.value s .rsSetup = s.cfg.tAs
        ∧ WaitOperand.value s .dataSetup = s.cfg.tDsu ∧ WaitOperand.value s .pulseWidth = s.cfg.tPw
        ∧ WaitOperand.value s .hold = s.cfg.tH ∧ WaitOperand.value s .boot1 = s.cfg.tBoot1
        ∧ WaitOperand.value s .boot2 = s.cfg.tBoot2 ∧ WaitOperand.value s .boot3 = s.cfg.tBoot3
        ∧ WaitOperand.value s .switch = s.cfg.tSwitch ∧ WaitOperand.value s .settle = settleTime s.cfg s.settle)
    ∧ nextPc .tx 14 = (.none, 0) ∧ nextPc .init 113 = (.none, 0)
    ∧ (∀ k, k < 14 → nextPc .tx k = (.tx, k + 1)) ∧ ∀ k, k < 113 → nextPc .init k = (.init, k + 1)

/-- R103 (the default long set is the spec's own decision D13): settle classes and durations; a byte takes exactly one settle
wait. -/
def Obligations.SettleClasses : Prop :=
  (∀ (l : List Byte) (b : Byte), settleOf l true b = .data)
    ∧ (∀ (l : List Byte) (b : Byte), b ∈ l → settleOf l false b = .long)
    ∧ (∀ (l : List Byte) (b : Byte), b ∉ l → settleOf l false b = .short)
    ∧ (∀ c : Config, settleTime c .short = c.tExec ∧ settleTime c .long = c.tClear ∧ settleTime c .data = c.tData)
    ∧ (∀ b : Byte, b ∈ Config.initial.longSet ↔ b = 0x01 ∨ b = 0x02 ∨ b = 0x03)
    ∧ txSchedule.count (.wait .settle) = 1

/-- R99 (the spec's own derivation): the six properties of every schedule, (a) to (f) in its order. -/
def Obligations.SchedulesWellFormed : Prop :=
  ∀ (c : Sched) (k : Nat),
    (c.steps[k]? = some .eHi → c.steps[k + 1]? = some (.wait .pulseWidth) ∧ c.steps[k + 2]? = some .eLo)
      ∧ (c.steps[k]? = some .eLo → c.steps[k + 1]? = some (.wait .hold) ∧ 2 ≤ k ∧ c.steps[k - 2]? = some .eHi)
      ∧ (∀ m, c.steps[k]? = some m → ((∃ v, m = .setRs v) ∨ ∃ n, m = .setD n) → levelAfter (c.steps.take k) = false)
      ∧ (∀ n, c.steps[k]? = some (.setD n) →
          c.steps[k + 1]? = some (.wait .dataSetup) ∧ c.steps[k + 2]? = some .eHi)
      ∧ (c.steps[k]? = some .eHi → .eHi ∉ c.steps.take k →
          ∃ j v, j + 1 < k ∧ c.steps[j]? = some (.setRs v) ∧ c.steps[j + 1]? = some (.wait .rsSetup))
      ∧ levelAfter (c.steps.take 0) = false ∧ levelAfter c.steps = false

/-- R122, R124, R125, R126: four of the five initialization transfers: each a LOAD with RS = 0 followed by the TX steps, its
byte, its settle class, and the two nibbles it latches. -/
def Obligations.InitTransfers : Prop :=
  ∀ b k n m settle,
    (b, k, n, m, settle) ∈
        ([(0x28, 33, 0x2, 0x8, .short), (0x01, 65, 0x0, 0x1, .long), (0x06, 81, 0x0, 0x6, .short),
          (0x0C, 97, 0x0, 0xC, .short)] : List (Byte × Nat × Nibble × Nibble × SettleClass)) →
      (initSchedule.drop k).take 16 = .load false b :: txSchedule
        ∧ settleOf Config.initial.longSet false b = settle
        ∧ ∀ (rs l : Bool) (x : Byte) (d : Nibble),
            (pathAfter rs x l d (.load false b :: txSchedule)).out = [(false, n), (false, m)]

/-! ### Invariants -/

/-- Every step keeps the block's invariant: the range of STEP (R17), FSM and OE for each pc (R34, R128), the level of E, no wait
outside a WAIT (R22), FCODE exactly in FAULT (R20), and a receiver of which nothing is known while the bus is not driven
(R33, R174). -/
def Obligations.BlockInvKept : Prop :=
  ∀ s t : State, BlockInv s → step s = .next t → BlockInv t

/-- R34 (the spec's own derivation): (a) to (f) hold in every state of every run, with every configuration, client and host. -/
def Obligations.RunsKeepR34 : Prop :=
  ∀ s : State, Reachable s → R34 s

/-- The invariants hold in every state in which rst falls: the receiver's where port, client and host present no request that
changes the framing (R210); and so in State.reset, whose idle port and empty client and host are the model's choice (log entry
25).  The memories' form is the model's representation (log entry 7). -/
def Obligations.InvariantsAtReset : Prop :=
  (∀ s : State, AtReset s →
      BlockInv s ∧ TimeInv s ∧ StreamInv s ∧ ScheduleInv s ∧ initFits s ∧ s.rx.mem.wf = true
        ∧ ((s.reqValid = true → keepsFraming s.reqWord = true) → (∀ w ∈ s.client, keepsFraming w = true) →
          (∀ m ∈ s.host, moveKeepsFraming m = true) → ReceiverInv s))
    ∧ AtReset State.reset ∧ ReceiverInv State.reset

/-- Every step keeps the canonical form of the receiver's memories: the bytes written (R30, R45), listed at strictly rising
addresses of the two spaces (R54, R55).  The lists are the model's own representation of them (log entry 7). -/
def Obligations.MemoryFormKept : Prop :=
  ∀ s t : State, s.rx.mem.wf = true → step s = .next t → t.rx.mem.wf = true

/-- Every step keeps time in order (R22, R86, R87, R93): trace events do not overlap, none lies ahead of the present, and every
wait has lasted, or will last, at least what it asked for. -/
def Obligations.TimeInvKept : Prop :=
  ∀ s t : State, BlockInv s → TimeInv s → step s = .next t → TimeInv t

/-- R87 (the spec's own decisions D1 and D6): in the trace a step leaves, between two events there lies at least the sum of the
waits asked for between them, and the first event's own wait if it is one, since the model puts a wait's event at the time it
began (log entry 9). -/
def Obligations.EventsApart : Prop :=
  ∀ (s t : State) (before between after : List (Nat × Event)) (e1 e2 : Nat × Event), BlockInv s → TimeInv s →
    step s = .next t → t.trace = before ++ e1 :: between ++ e2 :: after →
    e1.1 + eventMin e1 + (between.map eventMin).sum ≤ e2.1

/-- Every step keeps the latched stream equal to what the pin trace shows on RS and D at each falling edge of E (R47, R86). -/
def Obligations.StreamInvKept : Prop :=
  ∀ s t : State, BlockInv s → StreamInv s → step s = .next t → StreamInv t

/-- Every step keeps the data path where the schedule's steps so far put it, and the latched stream ending in the nibbles those
steps latched (R102, R104, R105, R117). -/
def Obligations.ScheduleInvKept : Prop :=
  ∀ s t : State, BlockInv s → ScheduleInv s → step s = .next t → ScheduleInv t

/-- R104, R105, R108, R132 (the spec's own derivations): a step that ends a TX schedule leaves the two nibbles of REQ_BYTE, both
with RS = REQ_RS, at the end of the latched stream, and the lines at REQ_RS, 0 and the low half; one that ends the INIT
schedule leaves its fourteen entries. -/
def Obligations.SchedulesLatch : Prop :=
  (∀ s t : State, BlockInv s → ScheduleInv s → step s = .next t → s.sched = .tx → t.sched = .none → t.fsm = .ready →
      (∃ before, t.latched = before ++ [(s.reqRs, hi s.reqByte), (s.reqRs, lo s.reqByte)])
        ∧ t.lineRs = s.reqRs ∧ t.lineE = false ∧ t.lineD = lo s.reqByte ∧ t.oe = true)
    ∧ ∀ s t : State, BlockInv s → ScheduleInv s → step s = .next t → s.sched = .init → t.sched = .none → t.fsm = .ready →
        ∃ before, t.latched = before ++
          [(false, 0x3), (false, 0x3), (false, 0x3), (false, 0x2), (false, 0x2), (false, 0x8), (false, 0x0),
            (false, 0x8), (false, 0x0), (false, 0x1), (false, 0x0), (false, 0x6), (false, 0x0), (false, 0xC)]

/-- Under A_SETTLE_SUFFICES, a hypothesis and no part of the model (log entry 23), every step keeps the receiver's framing in
step with the schedule and the receiver ready by the next falling edge (R110, R111, R155, R173), as long as no request to
come is a CMD of 0x30-0x3F (R210). -/
def Obligations.ReceiverInvKept : Prop :=
  ∀ s t : State, SettleSuffices s.cfg → BlockInv s → ScheduleInv s → ReceiverInv s → step s = .next t → ReceiverInv t

/-- R173 (the spec's own derivation): under A_SETTLE_SUFFICES, a hypothesis (log entry 23), no step refuses for a busy
receiver. -/
def Obligations.ReceiverNeverBusy : Prop :=
  ∀ s : State, SettleSuffices s.cfg → BlockInv s → ScheduleInv s → ReceiverInv s → step s ≠ .refused .receiverBusy

/-- R110, R175 (the spec's own derivations): at the second falling edge of a TX schedule the receiver executes the instruction
of exactly the bus value {REQ_RS, REQ_BYTE}. -/
def Obligations.TransferReachesReceiver : Prop :=
  ∀ s u : State, BlockInv s → ScheduleInv s → ReceiverInv s → s.sched = .tx → s.step = 12 →
    envTurn s = .next u → configLegal u.cfg = true → u.rst = false →
    step s = andThen
      (exec (decodeBus (busWord s.reqRs s.reqByte)) { dropE u with rx := { u.rx with ifmode := some .m4h } })
      fun t => .next (elapse (advance t))

/-- R133 (the spec's own derivation): every step keeps what the initialization has made of the receiver so far, and the step
that reaches READY leaves it as R133 gives it. -/
def Obligations.InitReachesReadyReceiver : Prop :=
  (∀ s t : State, BlockInv s → ScheduleInv s → ReceiverInv s → initFits s → step s = .next t → initFits t)
    ∧ ∀ s t : State, BlockInv s → ReceiverInv s → initFits s → step s = .next t → s.sched = .init → t.sched = .none →
        t.fsm = .ready →
        t.rx.ifmode = some .m4h ∧ t.rx.target = some .dd ∧ t.rx.ac = some 0
          ∧ (∀ a, t.rx.mem.ddAt a = .blank) ∧ (∀ a, t.rx.mem.cgAt a = none)
          ∧ t.rx.disp = some true ∧ t.rx.cur = some false ∧ t.rx.blink = some false
          ∧ t.rx.entry = some .incNoShift ∧ t.rx.func = some .f28 ∧ t.rx.shift = some 0

/-- R26, R191: no step changes the configuration: no request, no reset and no move of the host. -/
def Obligations.ConfigFixed : Prop :=
  ∀ s t : State, step s = .next t → t.cfg = s.cfg

/-! ### The client -/

/-- R136-R141, R143, R150, R151: what the calls of the Display Session API expand into; and R135: a call that emits nothing
changes nothing and is complete at once, and calls that are complete stay so, whatever the host does.  A call as a list of words is the model's reading (log entry 17), and the client's list
and its emit are log entry 11.  The unsigned arguments of gotoXY, rejecting a slot above 7 and the one reposition after the 16th
character are the spec's own decisions D23, D24 and D25.  The calls that emit a display control or a shift stand with those
instructions. -/
def Obligations.SessionExpansions : Prop :=
  ApiCall.init.requests = [0x200] ∧ ApiCall.clear.requests = [0x001]
    ∧ (∀ column row : Nat, row ≤ 1 → ∃ a : BitVec 7, a.toNat = row * 0x40 + column % 16
        ∧ (ApiCall.gotoXY column row).requests = [0b001#3 ++ a])
    ∧ (∀ column row : Nat, 1 < row → (ApiCall.gotoXY column row).requests = [])
    ∧ (∀ ch : Byte, (ApiCall.displayChar ch).requests = [0b01#2 ++ ch])
    ∧ (∀ text : List Byte, (ApiCall.displayString text).requests =
        0x001 :: ((text.take 16).map fun ch => 0b01#2 ++ ch) ++ (if 16 ≤ text.length then [0x0C0] else [])
          ++ (text.drop 16).map fun ch => 0b01#2 ++ ch)
    ∧ (∀ v : Int, (ApiCall.displayInteger v).requests = (ApiCall.displayString (decimal v)).requests)
    ∧ (∀ (slot : Nat) (p : Vector Byte 8), slot ≤ 7 → ∃ a : BitVec 6, a.toNat = 8 * slot
        ∧ (ApiCall.loadUserCharacter slot p).requests = (0b0001#4 ++ a) :: p.toList.map fun x => 0b01#2 ++ x)
    ∧ (∀ (slot : Nat) (p : Vector Byte 8), 7 < slot → (ApiCall.loadUserCharacter slot p).requests = [])
    ∧ ApiCall.readKeys.requests = [] ∧ (∀ p : Nat, (ApiCall.setBacklight p).requests = [])
    ∧ (∀ (c : ApiCall) (s : State), c.requests = [] →
        withCalls [c] s = s ∧ (s.client = [] → s.emitting = false → clientDone (withCalls [c] s) = true))
    ∧ ∀ s t : State, clientDone s = true → step s = .next t → clientDone t = true

/-- R142 (ASCII is the spec's own decision D27): the decimal text of an integer: a '-' exactly for a negative number, then
digits without a leading zero whose value is its magnitude; '0' for 0. -/
def Obligations.DecimalText : Prop :=
  decimal 0 = [0x30]
    ∧ (∀ n : Nat, 0 < n → decimal n = digits n ∧ decimal (-(n : Int)) = 0x2D :: digits n
        ∧ textValue 0 (digits n) = n
        ∧ (∀ c ∈ digits n, 0x30 ≤ c.toNat ∧ c.toNat ≤ 0x39)
        ∧ ∃ c rest, digits n = c :: rest ∧ c ≠ 0x30)

end
end

