-- ==== Sys2Proof/Laws/Receiver.lean ====
section
/-! SUPPORT. The receiver: what one transfer and one latch can do, and that the receiver's dispatch is exec. -/

namespace Sys2Proof.Laws

open Sys2Proof.Machine

/-! ### Outcomes -/

@[simp] theorem andThen_next {α : Type} (a : α) (f : α → Outcome) : andThen (.next a) f = f a := rfl

@[simp] theorem andThen_fault {α : Type} (r : Fault) (f : α → Outcome) : andThen (.fault r) f = .fault r := rfl

@[simp] theorem andThen_refused {α : Type} (r : Refusal) (f : α → Outcome) :
    andThen (.refused r) f = .refused r := rfl

/-- A sequence answers a next state only through one of its first part. -/
theorem andThen_eq_next {α : Type} {o : Host.Outcome α Fault Refusal} {f : α → Outcome} {t : State}
    (h : andThen o f = .next t) : ∃ a, o = .next a ∧ f a = .next t := by
  cases o with
  | next a => exact ⟨a, rfl, h⟩
  | fault r => cases h
  | refused r => cases h

/-- A sequence refuses where one of its parts does. -/
theorem andThen_eq_refused {α : Type} {o : Host.Outcome α Fault Refusal} {f : α → Outcome} {r : Refusal}
    (h : andThen o f = .refused r) : o = .refused r ∨ ∃ a, o = .next a ∧ f a = .refused r := by
  cases o with
  | next a => exact .inr ⟨a, rfl, h⟩
  | fault q => cases h
  | refused q => exact .inl (by cases h; rfl)

/-! ### One transfer -/

/-- A receiver that is ready executes the transfer: its effect, and XEND moved. -/
theorem rxTransfer_ready {rs : Bool} {b : Byte} {eff : Receiver → Host.Outcome Receiver Fault Refusal} {s : State}
    (ready : s.rx.xend ≤ s.now) :
    rxTransfer rs b eff s =
      andThen (eff s.rx) fun r => .next { s with rx := { r with xend := s.now + Config.rExec rs b } } := by
  unfold rxTransfer
  rw [if_neg (by omega)]

/-- A receiver that is busy refuses it. -/
theorem rxTransfer_busy {rs : Bool} {b : Byte} {eff : Receiver → Host.Outcome Receiver Fault Refusal} {s : State}
    (busy : s.now < s.rx.xend) : rxTransfer rs b eff s = .refused .receiverBusy := by
  unfold rxTransfer
  rw [if_pos busy]

/-- All a transfer can do when it answers a next state. -/
theorem rxTransfer_cases {rs : Bool} {b : Byte} {eff : Receiver → Host.Outcome Receiver Fault Refusal} {s t : State}
    (h : rxTransfer rs b eff s = .next t) :
    s.rx.xend ≤ s.now ∧ ∃ r, eff s.rx = .next r
      ∧ t = { s with rx := { r with xend := s.now + Config.rExec rs b } } := by
  unfold rxTransfer at h
  split at h
  · cases h
  · obtain ⟨r, h1, h2⟩ := andThen_eq_next h
    cases h2
    exact ⟨by omega, r, h1, rfl⟩

/-! ### Each bus instruction is one transfer -/

theorem exec_functionSet (s : State) : exec .functionSet s =
    rxTransfer false 0x28 (fun r => .next { r with ifmode := some .m4h, func := some .f28 }) s := rfl

theorem exec_functionSetOther (x : BitVec 5) (s : State) : exec (.functionSetOther x) s =
    rxTransfer false (0b001#3 ++ x) (fun r => .next (functionSetOtherEffect x r)) s := rfl

theorem exec_cursorShiftLeft (s : State) : exec .cursorShiftLeft s =
    rxTransfer false 0x10 (fun r => .next { r with ac := shiftedAc (fun a => decide (0 < column a)) (· - 1) r }) s := rfl

theorem exec_cursorShiftRight (s : State) : exec .cursorShiftRight s =
    rxTransfer false 0x14 (fun r => .next { r with ac := shiftedAc (fun a => decide (column a < 15)) (· + 1) r }) s := rfl

theorem exec_displayShiftLeft (s : State) : exec .displayShiftLeft s =
    rxTransfer false 0x18 (fun r => .next { r with shift := r.shift.map (· + 1) }) s := rfl

theorem exec_displayShiftRight (s : State) : exec .displayShiftRight s =
    rxTransfer false 0x1C (fun r => .next { r with shift := r.shift.map (· - 1) }) s := rfl

theorem exec_shiftOther (x : BitVec 4) (s : State) : exec (.shiftOther x) s =
    rxTransfer false (0b0001#4 ++ x) (fun r => .next (unknownEffect r)) s := rfl

theorem exec_displayControl (d c k : Bool) (s : State) : exec (.displayControl d c k) s =
    rxTransfer false (0b00001#5 ++ BitVec.ofBool d ++ BitVec.ofBool c ++ BitVec.ofBool k)
      (fun r => .next { r with disp := some d, cur := some c, blink := some k }) s := rfl

theorem exec_entryModeSet (s : State) : exec .entryModeSet s =
    rxTransfer false 0x06 (fun r => .next { r with entry := some .incNoShift }) s := rfl

theorem exec_entryModeOther (x : BitVec 2) (s : State) : exec (.entryModeOther x) s =
    rxTransfer false (0b000001#6 ++ x) (fun r => .next (unknownEffect r)) s := rfl

theorem exec_instr02Or03 (x : Bool) (s : State) : exec (.instr02Or03 x) s =
    rxTransfer false (0b0000001#7 ++ BitVec.ofBool x) (fun r => .next (unknownEffect r)) s := rfl

theorem exec_clearDisplay (s : State) : exec .clearDisplay s =
    rxTransfer false 0x01
      (fun r => .next { r with mem := r.mem.clearDd, target := some .dd, ac := some 0, shift := some 0 }) s := rfl

theorem exec_instr00 (s : State) : exec .instr00 s =
    rxTransfer false 0x00 (fun r => .next (unknownEffect r)) s := rfl

theorem exec_setCgramAddr (a : BitVec 6) (s : State) : exec (.setCgramAddr a) s =
    rxTransfer false (0b01#2 ++ a) (fun r => .next { r with target := some .cg, ac := some (a.setWidth 7) }) s := rfl

theorem exec_setDdramAddr (a : BitVec 7) (s : State) : exec (.setDdramAddr a) s =
    rxTransfer false (1#1 ++ a) (fun r => .next { r with target := some .dd, ac := some a }) s := rfl

theorem exec_writeData (b : Byte) (s : State) : exec (.writeData b) s = rxTransfer true b (writeDataEffect b) s := rfl

/-! ### The dispatch -/

/-- An instruction the receiver executes. -/
def isBus (i : Instr) : Bool :=
  match i with
  | .init | .reservedReq _ | .cmd _ | .data _ | .bootFuncset8bit | .switch4bit => false
  | .functionSet | .functionSetOther _ | .cursorShiftLeft | .cursorShiftRight | .displayShiftLeft | .displayShiftRight
  | .shiftOther _ | .displayControl _ _ _ | .entryModeSet | .entryModeOther _ | .instr02Or03 _ | .clearDisplay
  | .instr00 | .setCgramAddr _ | .setDdramAddr _ | .writeData _ => true

theorem isBus_decodeByte (b : Byte) : isBus (decodeByte b) = true := by
  unfold decodeByte
  repeat' split
  all_goals rfl

/-- Every bus word is an instruction of the receiver. -/
theorem isBus_decodeBus (w : BitVec 9) : isBus (decodeBus w) = true := by
  unfold decodeBus
  split
  · rfl
  · exact isBus_decodeByte _

/-- The receiver's dispatch is exec. -/
theorem rxDispatch_eq_exec {i : Instr} (h : isBus i = true) (s : State) : rxDispatch i s = exec i s := by
  cases i <;> first | rfl | cases h

/-- The byte a receiver forms is executed as exec executes the instruction it decodes to. -/
theorem rxExec_eq_exec (rs : Bool) (b : Byte) (s : State) :
    rxExec rs b s = exec (decodeBus (busWord rs b)) s :=
  rxDispatch_eq_exec (isBus_decodeBus _) s

/-! ### One latch -/

theorem rxLatch_m4h {rs : Bool} {n : Nibble} {s : State} (h : s.rx.ifmode = some .m4h) :
    rxLatch rs n s = .next { s with rx := { s.rx with nibhi := some n, ifmode := some .m4l } } := by
  simp [rxLatch, h, latchIn]

theorem rxLatch_m4l {rs : Bool} {n h : Nibble} {s : State} (hm : s.rx.ifmode = some .m4l) (hn : s.rx.nibhi = some h) :
    rxLatch rs n s = rxExec rs (byteOf h n) { s with rx := { s.rx with ifmode := some .m4h } } := by
  simp [rxLatch, hm, latchIn, hn]

theorem rxLatch_m8 {rs : Bool} {n : Nibble} {s : State} (h : s.rx.ifmode = some .m8) :
    rxLatch rs n s = rxExec rs (byteOf n (Config.freeNibble s.draws)) { s with draws := s.draws + 1 } := by
  simp [rxLatch, h, latchIn]

/-- RS and the byte of a bus instruction; 0 for the others. -/
def busOf (i : Instr) : Bool × Byte :=
  match encode i with
  | .bus9 w => (w.getLsbD 8, w.extractLsb' 0 8)
  | .req10 _ => (false, 0)
  | .nib5 _ => (false, 0)

theorem busOf_decodeByte (b : Byte) : busOf (decodeByte b) = (false, b) := by
  revert b; decide +kernel

/-- The instruction a byte decodes to carries that byte. -/
theorem busOf_decodeBus (rs : Bool) (b : Byte) : busOf (decodeBus (busWord rs b)) = (rs, b) := by
  cases rs
  · revert b; decide +kernel
  · revert b; decide +kernel

theorem busOf_functionSetOther (x : BitVec 5) : busOf (.functionSetOther x) = (false, 0b001#3 ++ x) := by
  revert x; decide +kernel

theorem busOf_shiftOther (x : BitVec 4) : busOf (.shiftOther x) = (false, 0b0001#4 ++ x) := by
  revert x; decide +kernel

theorem busOf_entryModeOther (x : BitVec 2) : busOf (.entryModeOther x) = (false, 0b000001#6 ++ x) := by
  revert x; decide +kernel

theorem busOf_setCgramAddr (a : BitVec 6) : busOf (.setCgramAddr a) = (false, 0b01#2 ++ a) := by
  revert a; decide +kernel

theorem busOf_setDdramAddr (a : BitVec 7) : busOf (.setDdramAddr a) = (false, 1#1 ++ a) := by
  revert a; decide +kernel

theorem busOf_writeData (b : Byte) : busOf (.writeData b) = (true, b) := by
  revert b; decide +kernel

theorem busOf_displayControl (d c k : Bool) :
    busOf (.displayControl d c k) =
      (false, 0b00001#5 ++ BitVec.ofBool d ++ BitVec.ofBool c ++ BitVec.ofBool k) := by
  revert d c k; decide +kernel

theorem busOf_instr02Or03 (x : Bool) : busOf (.instr02Or03 x) = (false, 0b0000001#7 ++ BitVec.ofBool x) := by
  revert x; decide +kernel

/-- Every bus instruction is one transfer of its byte. -/
theorem rxDispatch_transfer {i : Instr} (h : isBus i = true) :
    ∃ rs b eff, busOf i = (rs, b) ∧ ∀ s, rxDispatch i s = rxTransfer rs b eff s := by
  cases i with
  | init => cases h
  | reservedReq w => cases h
  | cmd b => cases h
  | data b => cases h
  | bootFuncset8bit => cases h
  | switch4bit => cases h
  | functionSetOther x => exact ⟨_, _, _, busOf_functionSetOther x, fun s => Eq.refl (execFunctionSetOther x s)⟩
  | shiftOther x => exact ⟨_, _, _, busOf_shiftOther x, fun s => Eq.refl (execShiftOther x s)⟩
  | displayControl d c k => exact ⟨_, _, _, busOf_displayControl d c k, fun s => Eq.refl (execDisplayControl d c k s)⟩
  | entryModeOther x => exact ⟨_, _, _, busOf_entryModeOther x, fun s => Eq.refl (execEntryModeOther x s)⟩
  | instr02Or03 x => exact ⟨_, _, _, busOf_instr02Or03 x, fun s => Eq.refl (execInstr02Or03 x s)⟩
  | setCgramAddr a => exact ⟨_, _, _, busOf_setCgramAddr a, fun s => Eq.refl (execSetCgramAddr a s)⟩
  | setDdramAddr a => exact ⟨_, _, _, busOf_setDdramAddr a, fun s => Eq.refl (execSetDdramAddr a s)⟩
  | writeData b => exact ⟨_, _, _, busOf_writeData b, fun s => Eq.refl (execWriteData b s)⟩
  | functionSet => exact ⟨false, 0x28, _, by decide, fun s => Eq.refl (execFunctionSet s)⟩
  | cursorShiftLeft => exact ⟨false, 0x10, _, by decide, fun s => Eq.refl (execCursorShiftLeft s)⟩
  | cursorShiftRight => exact ⟨false, 0x14, _, by decide, fun s => Eq.refl (execCursorShiftRight s)⟩
  | displayShiftLeft => exact ⟨false, 0x18, _, by decide, fun s => Eq.refl (execDisplayShiftLeft s)⟩
  | displayShiftRight => exact ⟨false, 0x1C, _, by decide, fun s => Eq.refl (execDisplayShiftRight s)⟩
  | entryModeSet => exact ⟨false, 0x06, _, by decide, fun s => Eq.refl (execEntryModeSet s)⟩
  | clearDisplay => exact ⟨false, 0x01, _, by decide, fun s => Eq.refl (execClearDisplay s)⟩
  | instr00 => exact ⟨false, 0x00, _, by decide, fun s => Eq.refl (execInstr00 s)⟩

/-- Executing a byte is one transfer of that byte. -/
theorem rxExec_transfer (rs : Bool) (b : Byte) : ∃ eff, ∀ s, rxExec rs b s = rxTransfer rs b eff s := by
  obtain ⟨rs', b', eff, hb, h⟩ := rxDispatch_transfer (isBus_decodeBus (busWord rs b))
  rw [busOf_decodeBus] at hb
  cases hb
  exact ⟨eff, h⟩

/-- All the execution of a byte can do when it answers a next state: the receiver was ready, it changes, XEND moves, and
nothing else changes. -/
theorem rxExec_frame {rs : Bool} {b : Byte} {s t : State} (h : rxExec rs b s = .next t) :
    s.rx.xend ≤ s.now ∧ t.rx.xend = s.now + Config.rExec rs b ∧ t = { s with rx := t.rx } := by
  obtain ⟨eff, he⟩ := rxExec_transfer rs b
  rw [he] at h
  obtain ⟨ready, r, _, rfl⟩ := rxTransfer_cases h
  exact ⟨ready, rfl, rfl⟩

/-- All a latch can do when it answers a next state: the receiver and the count of free values change, and nothing else. -/
theorem rxLatch_frame {rs : Bool} {n : Nibble} {s t : State} (h : rxLatch rs n s = .next t) :
    t = { s with rx := t.rx, draws := t.draws } := by
  unfold rxLatch at h
  have key : ∀ (f : Framing) (u : State), latchIn f rs n u = .next t → t = { u with rx := t.rx, draws := t.draws } := by
    intro f u hu
    cases f with
    | m8 => rw [(rxExec_frame hu).2.2]
    | m4h => cases hu; rfl
    | m4l =>
      simp only [latchIn] at hu
      split at hu <;> rw [(rxExec_frame hu).2.2]
  split at h
  · exact key _ _ h
  · exact (key _ _ h).trans rfl

/-! ### An instruction byte, and a latch with RS = 0 -/

/-- What every instruction byte's effect on the receiver has in common (R158, R176). -/
structure InstructionEffect (b : Byte) (f : Receiver → Receiver) : Prop where
  transfer : ∀ s, rxExec false b s = rxTransfer false b (fun r => .next (f r)) s
  cg : ∀ r, (f r).mem.cg = r.mem.cg
  mem : b ≠ 0x01 → ∀ r, (f r).mem = r.mem
  framing : b &&& 0xE0 ≠ 0x20 → ∀ r, (f r).ifmode = r.ifmode
  eightBit : b &&& 0xF0 = 0x30 → ∀ r, (f r).ifmode = some .m8
  fourBit : b &&& 0xF0 = 0x20 → ∀ r, (f r).ifmode = some .m4h

/-- An instruction that touches neither memory nor framing, whose byte is no function set. -/
theorem instructionEffect_plain {b : Byte} {f : Receiver → Receiver}
    (transfer : ∀ s, rxExec false b s = rxTransfer false b (fun r => .next (f r)) s)
    (mem : ∀ r, (f r).mem = r.mem) (framing : ∀ r, (f r).ifmode = r.ifmode)
    (three : b &&& 0xF0 ≠ 0x30) (two : b &&& 0xF0 ≠ 0x20) : InstructionEffect b f :=
  ⟨transfer, fun r => by rw [mem], fun _ => mem, fun _ => framing, fun h => absurd h three, fun h => absurd h two⟩

/-- The transfer of an instruction is that of the byte it is decoded from. -/
theorem rxExec_of_dispatch {i : Instr} {b : Byte} {eff : Receiver → Host.Outcome Receiver Fault Refusal}
    (hb : busOf i = (false, b)) (h : ∀ s, rxDispatch i s = rxTransfer false b eff s)
    (b' : Byte) (hd : decodeBus (busWord false b') = i) : ∀ s, rxExec false b' s = rxTransfer false b' eff s := by
  have e : (false, b') = (false, b) := by rw [← busOf_decodeBus, hd, hb]
  cases e
  intro s
  unfold rxExec
  rw [hd, h]

/-- Every instruction byte has an effect, and refuses only for a busy receiver (R156, R176). -/
theorem rxExec_instruction (b : Byte) : ∃ f, InstructionEffect b f := by
  cases hd : decodeBus (busWord false b) with
  | init => exact absurd (hd ▸ isBus_decodeBus (busWord false b)) (by decide)
  | reservedReq w => exact absurd (hd ▸ isBus_decodeBus (busWord false b)) (by simp [isBus])
  | cmd x => exact absurd (hd ▸ isBus_decodeBus (busWord false b)) (by simp [isBus])
  | data x => exact absurd (hd ▸ isBus_decodeBus (busWord false b)) (by simp [isBus])
  | bootFuncset8bit => exact absurd (hd ▸ isBus_decodeBus (busWord false b)) (by decide)
  | switch4bit => exact absurd (hd ▸ isBus_decodeBus (busWord false b)) (by decide)
  | writeData x =>
    have := busOf_decodeBus false b
    rw [hd, busOf_writeData] at this
    cases this
  | functionSet =>
    have e : (false, b) = (false, 0x28) := by rw [← busOf_decodeBus, hd]; decide
    cases e
    exact ⟨_, fun s => Eq.refl (execFunctionSet s), fun _ => rfl, fun _ _ => rfl, fun h => absurd (by decide) h,
      fun h => absurd h (by decide), fun _ _ => rfl⟩
  | functionSetOther x =>
    have e : (false, b) = (false, 0b001#3 ++ x) := by rw [← busOf_decodeBus, hd, busOf_functionSetOther]
    cases e
    refine ⟨_, rxExec_of_dispatch (busOf_functionSetOther x) (fun s => Eq.refl (execFunctionSetOther x s)) _ hd,
      fun _ => rfl, fun _ _ => rfl, fun h => absurd (by revert x; decide +kernel) h, fun h r => ?_, fun h r => ?_⟩
    · have : x.getLsbD 4 = true := by revert h; clear hd; revert x; decide +kernel
      simp only [functionSetOtherEffect, unknownEffect, this, if_true]
    · have : x.getLsbD 4 = false := by revert h; clear hd; revert x; decide +kernel
      simp only [functionSetOtherEffect, unknownEffect, this, Bool.false_eq_true, if_false]
  | clearDisplay =>
    have e : (false, b) = (false, 0x01) := by rw [← busOf_decodeBus, hd]; decide
    cases e
    exact ⟨_, fun s => Eq.refl (execClearDisplay s), fun _ => rfl, fun h => absurd rfl h, fun _ _ => rfl,
      fun h => absurd h (by decide), fun h => absurd h (by decide)⟩
  | cursorShiftLeft =>
    have e : (false, b) = (false, 0x10) := by rw [← busOf_decodeBus, hd]; decide
    cases e
    exact ⟨_, instructionEffect_plain (fun s => Eq.refl (execCursorShiftLeft s)) (fun _ => rfl) (fun _ => rfl) (by decide)
      (by decide)⟩
  | cursorShiftRight =>
    have e : (false, b) = (false, 0x14) := by rw [← busOf_decodeBus, hd]; decide
    cases e
    exact ⟨_, instructionEffect_plain (fun s => Eq.refl (execCursorShiftRight s)) (fun _ => rfl) (fun _ => rfl) (by decide)
      (by decide)⟩
  | displayShiftLeft =>
    have e : (false, b) = (false, 0x18) := by rw [← busOf_decodeBus, hd]; decide
    cases e
    exact ⟨_, instructionEffect_plain (fun s => Eq.refl (execDisplayShiftLeft s)) (fun _ => rfl) (fun _ => rfl) (by decide)
      (by decide)⟩
  | displayShiftRight =>
    have e : (false, b) = (false, 0x1C) := by rw [← busOf_decodeBus, hd]; decide
    cases e
    exact ⟨_, instructionEffect_plain (fun s => Eq.refl (execDisplayShiftRight s)) (fun _ => rfl) (fun _ => rfl) (by decide)
      (by decide)⟩
  | entryModeSet =>
    have e : (false, b) = (false, 0x06) := by rw [← busOf_decodeBus, hd]; decide
    cases e
    exact ⟨_, instructionEffect_plain (fun s => Eq.refl (execEntryModeSet s)) (fun _ => rfl) (fun _ => rfl) (by decide)
      (by decide)⟩
  | instr00 =>
    have e : (false, b) = (false, 0x00) := by rw [← busOf_decodeBus, hd]; decide
    cases e
    exact ⟨_, instructionEffect_plain (fun s => Eq.refl (execInstr00 s)) (fun _ => rfl) (fun _ => rfl) (by decide)
      (by decide)⟩
  | shiftOther x =>
    have e : (false, b) = (false, 0b0001#4 ++ x) := by rw [← busOf_decodeBus, hd, busOf_shiftOther]
    cases e
    exact ⟨_, instructionEffect_plain
      (rxExec_of_dispatch (busOf_shiftOther x) (fun s => Eq.refl (execShiftOther x s)) _ hd) (fun _ => rfl)
      (fun _ => rfl) (by clear hd; revert x; decide +kernel) (by clear hd; revert x; decide +kernel)⟩
  | displayControl d c k =>
    have e : (false, b) = (false, 0b00001#5 ++ BitVec.ofBool d ++ BitVec.ofBool c ++ BitVec.ofBool k) := by
      rw [← busOf_decodeBus, hd, busOf_displayControl]
    cases e
    exact ⟨_, instructionEffect_plain
      (rxExec_of_dispatch (busOf_displayControl d c k) (fun s => Eq.refl (execDisplayControl d c k s)) _ hd)
      (fun _ => rfl) (fun _ => rfl) (by clear hd; revert d c k; decide +kernel) (by clear hd; revert d c k; decide +kernel)⟩
  | entryModeOther x =>
    have e : (false, b) = (false, 0b000001#6 ++ x) := by rw [← busOf_decodeBus, hd, busOf_entryModeOther]
    cases e
    exact ⟨_, instructionEffect_plain
      (rxExec_of_dispatch (busOf_entryModeOther x) (fun s => Eq.refl (execEntryModeOther x s)) _ hd) (fun _ => rfl)
      (fun _ => rfl) (by clear hd; revert x; decide +kernel) (by clear hd; revert x; decide +kernel)⟩
  | instr02Or03 x =>
    have e : (false, b) = (false, 0b0000001#7 ++ BitVec.ofBool x) := by rw [← busOf_decodeBus, hd, busOf_instr02Or03]
    cases e
    exact ⟨_, instructionEffect_plain
      (rxExec_of_dispatch (busOf_instr02Or03 x) (fun s => Eq.refl (execInstr02Or03 x s)) _ hd) (fun _ => rfl)
      (fun _ => rfl) (by clear hd; revert x; decide +kernel) (by clear hd; revert x; decide +kernel)⟩
  | setCgramAddr a =>
    have e : (false, b) = (false, 0b01#2 ++ a) := by rw [← busOf_decodeBus, hd, busOf_setCgramAddr]
    cases e
    exact ⟨_, instructionEffect_plain
      (rxExec_of_dispatch (busOf_setCgramAddr a) (fun s => Eq.refl (execSetCgramAddr a s)) _ hd) (fun _ => rfl)
      (fun _ => rfl) (by clear hd; revert a; decide +kernel) (by clear hd; revert a; decide +kernel)⟩
  | setDdramAddr a =>
    have e : (false, b) = (false, 1#1 ++ a) := by rw [← busOf_decodeBus, hd, busOf_setDdramAddr]
    cases e
    exact ⟨_, instructionEffect_plain
      (rxExec_of_dispatch (busOf_setDdramAddr a) (fun s => Eq.refl (execSetDdramAddr a s)) _ hd) (fun _ => rfl)
      (fun _ => rfl) (by clear hd; revert a; decide +kernel) (by clear hd; revert a; decide +kernel)⟩

/-- All a latch of n with RS = 0 can do in framing f, when it ends in t: in M8 a byte with high half n is executed, in M4H n is
stored, in M4L a byte with low half n is executed, its high half NIBHI where that is known (R153, R154). -/
def LatchCase (n : Nibble) (s t : State) : Framing → Prop
  | .m8 => ∃ (x : Nibble) (u : State), u.rx = { s.rx with ifmode := u.rx.ifmode } ∧ u.rx.ifmode = some .m8
      ∧ u.now = s.now ∧ rxExec false (byteOf n x) u = .next t
  | .m4h => t.rx = { s.rx with ifmode := some .m4l, nibhi := some n }
  | .m4l => ∃ (x : Nibble) (u : State), (s.rx.nibhi = none ∨ s.rx.nibhi = some x)
      ∧ u.rx = { s.rx with ifmode := some .m4h, nibhi := some x } ∧ u.now = s.now
      ∧ rxExec false (byteOf x n) u = .next t

/-- A latch with RS = 0 is a latch in the framing the receiver has, or in some framing where it is unknown. -/
theorem rxLatch_instruction_cases {n : Nibble} {s t : State} (h : rxLatch false n s = .next t) :
    ∃ f, (s.rx.ifmode = none ∨ s.rx.ifmode = some f) ∧ LatchCase n s t f := by
  have key : ∀ (f : Framing) (u : State), u.rx = { s.rx with ifmode := some f } → u.now = s.now →
      latchIn f false n u = .next t → LatchCase n s t f := by
    intro f u hu hn hl
    cases f with
    | m8 => exact ⟨_, { u with draws := u.draws + 1 }, by simp only [hu], by simp only [hu], hn, hl⟩
    | m4h => cases hl; simp only [LatchCase, hu]
    | m4l =>
      have e : u.rx.nibhi = s.rx.nibhi := by rw [hu]
      simp only [latchIn] at hl
      split at hl
      · rename_i h hh
        refine ⟨h, { u with rx := { u.rx with ifmode := some .m4h } }, .inr (e.symm.trans hh), ?_, hn, hl⟩
        simp only [hu]
        rw [← e, hh]
      · rename_i hh
        refine ⟨_, _, .inl (e.symm.trans hh), ?_, ?_, hl⟩
        · simp only [hu]
        · exact hn
  unfold rxLatch at h
  split at h
  · rename_i f hf
    exact ⟨f, .inr hf, key f s (by rw [← hf]) rfl h⟩
  · rename_i hf
    refine ⟨_, .inl hf, key _ _ ?_ ?_ h⟩ <;> rfl

end Sys2Proof.Laws
end

