-- ==== Sys2Proof/Laws/State.lean ====
section
/-! SUPPORT. One lemma per field per named update of the state: what the update leaves there.  All hold by unfolding. -/

namespace Sys2Proof.Laws

open Sys2Proof.Machine

/-- Inside a schedule the pc moves on by one step. -/
theorem nextPc_mid {c : Sched} {k : Nat} (h : k + 1 < c.steps.length) : nextPc c k = (c, k + 1) := if_pos h

/-- Past the last step the pc is (NONE, 0). -/
theorem nextPc_end {c : Sched} {k : Nat} (h : c.steps.length ≤ k + 1) : nextPc c k = (.none, 0) :=
  if_neg (Nat.not_lt.mpr h)

variable (s : State)

/-! `emit` -/

@[simp] theorem emit_cfg (e : Event) : (emit e s).cfg = s.cfg := rfl
@[simp] theorem emit_fsm (e : Event) : (emit e s).fsm = s.fsm := rfl
@[simp] theorem emit_sched (e : Event) : (emit e s).sched = s.sched := rfl
@[simp] theorem emit_step (e : Event) : (emit e s).step = s.step := rfl
@[simp] theorem emit_fcode (e : Event) : (emit e s).fcode = s.fcode := rfl
@[simp] theorem emit_reqRs (e : Event) : (emit e s).reqRs = s.reqRs := rfl
@[simp] theorem emit_reqByte (e : Event) : (emit e s).reqByte = s.reqByte := rfl
@[simp] theorem emit_settle (e : Event) : (emit e s).settle = s.settle := rfl
@[simp] theorem emit_lineRs (e : Event) : (emit e s).lineRs = s.lineRs := rfl
@[simp] theorem emit_lineE (e : Event) : (emit e s).lineE = s.lineE := rfl
@[simp] theorem emit_lineD (e : Event) : (emit e s).lineD = s.lineD := rfl
@[simp] theorem emit_oe (e : Event) : (emit e s).oe = s.oe := rfl
@[simp] theorem emit_waitRem (e : Event) : (emit e s).waitRem = s.waitRem := rfl
@[simp] theorem emit_waitFrom (e : Event) : (emit e s).waitFrom = s.waitFrom := rfl
@[simp] theorem emit_rst (e : Event) : (emit e s).rst = s.rst := rfl
@[simp] theorem emit_reqValid (e : Event) : (emit e s).reqValid = s.reqValid := rfl
@[simp] theorem emit_reqWord (e : Event) : (emit e s).reqWord = s.reqWord := rfl
@[simp] theorem emit_rx (e : Event) : (emit e s).rx = s.rx := rfl
@[simp] theorem emit_now (e : Event) : (emit e s).now = s.now := rfl
@[simp] theorem emit_powerUp (e : Event) : (emit e s).powerUp = s.powerUp := rfl
@[simp] theorem emit_trace (e : Event) : (emit e s).trace = s.trace ++ [(s.now, e)] := rfl
@[simp] theorem emit_latched (e : Event) : (emit e s).latched = s.latched := rfl
@[simp] theorem emit_client (e : Event) : (emit e s).client = s.client := rfl
@[simp] theorem emit_emitting (e : Event) : (emit e s).emitting = s.emitting := rfl
@[simp] theorem emit_host (e : Event) : (emit e s).host = s.host := rfl
@[simp] theorem emit_draws (e : Event) : (emit e s).draws = s.draws := rfl

/-! `elapse` -/

@[simp] theorem elapse_cfg : (elapse s).cfg = s.cfg := rfl
@[simp] theorem elapse_fsm : (elapse s).fsm = s.fsm := rfl
@[simp] theorem elapse_sched : (elapse s).sched = s.sched := rfl
@[simp] theorem elapse_step : (elapse s).step = s.step := rfl
@[simp] theorem elapse_fcode : (elapse s).fcode = s.fcode := rfl
@[simp] theorem elapse_reqRs : (elapse s).reqRs = s.reqRs := rfl
@[simp] theorem elapse_reqByte : (elapse s).reqByte = s.reqByte := rfl
@[simp] theorem elapse_settle : (elapse s).settle = s.settle := rfl
@[simp] theorem elapse_lineRs : (elapse s).lineRs = s.lineRs := rfl
@[simp] theorem elapse_lineE : (elapse s).lineE = s.lineE := rfl
@[simp] theorem elapse_lineD : (elapse s).lineD = s.lineD := rfl
@[simp] theorem elapse_oe : (elapse s).oe = s.oe := rfl
@[simp] theorem elapse_waitRem : (elapse s).waitRem = s.waitRem := rfl
@[simp] theorem elapse_waitFrom : (elapse s).waitFrom = s.waitFrom := rfl
@[simp] theorem elapse_rst : (elapse s).rst = s.rst := rfl
@[simp] theorem elapse_reqValid : (elapse s).reqValid = s.reqValid := rfl
@[simp] theorem elapse_reqWord : (elapse s).reqWord = s.reqWord := rfl
@[simp] theorem elapse_rx : (elapse s).rx = s.rx := rfl
@[simp] theorem elapse_now : (elapse s).now = s.now + Config.freeDelay s.draws := rfl
@[simp] theorem elapse_powerUp : (elapse s).powerUp = s.powerUp := rfl
@[simp] theorem elapse_trace : (elapse s).trace = s.trace := rfl
@[simp] theorem elapse_latched : (elapse s).latched = s.latched := rfl
@[simp] theorem elapse_client : (elapse s).client = s.client := rfl
@[simp] theorem elapse_emitting : (elapse s).emitting = s.emitting := rfl
@[simp] theorem elapse_host : (elapse s).host = s.host := rfl
@[simp] theorem elapse_draws : (elapse s).draws = s.draws + 1 := rfl

/-! `advance` -/

@[simp] theorem advance_cfg : (advance s).cfg = s.cfg := rfl
@[simp] theorem advance_fsm : (advance s).fsm = s.fsm := rfl
@[simp] theorem advance_sched : (advance s).sched = (nextPc s.sched s.step).1 := rfl
@[simp] theorem advance_step : (advance s).step = (nextPc s.sched s.step).2 := rfl
@[simp] theorem advance_fcode : (advance s).fcode = s.fcode := rfl
@[simp] theorem advance_reqRs : (advance s).reqRs = s.reqRs := rfl
@[simp] theorem advance_reqByte : (advance s).reqByte = s.reqByte := rfl
@[simp] theorem advance_settle : (advance s).settle = s.settle := rfl
@[simp] theorem advance_lineRs : (advance s).lineRs = s.lineRs := rfl
@[simp] theorem advance_lineE : (advance s).lineE = s.lineE := rfl
@[simp] theorem advance_lineD : (advance s).lineD = s.lineD := rfl
@[simp] theorem advance_oe : (advance s).oe = s.oe := rfl
@[simp] theorem advance_waitRem : (advance s).waitRem = s.waitRem := rfl
@[simp] theorem advance_waitFrom : (advance s).waitFrom = s.waitFrom := rfl
@[simp] theorem advance_rst : (advance s).rst = s.rst := rfl
@[simp] theorem advance_reqValid : (advance s).reqValid = s.reqValid := rfl
@[simp] theorem advance_reqWord : (advance s).reqWord = s.reqWord := rfl
@[simp] theorem advance_rx : (advance s).rx = s.rx := rfl
@[simp] theorem advance_now : (advance s).now = s.now := rfl
@[simp] theorem advance_powerUp : (advance s).powerUp = s.powerUp := rfl
@[simp] theorem advance_trace : (advance s).trace = s.trace := rfl
@[simp] theorem advance_latched : (advance s).latched = s.latched := rfl
@[simp] theorem advance_client : (advance s).client = s.client := rfl
@[simp] theorem advance_emitting : (advance s).emitting = s.emitting := rfl
@[simp] theorem advance_host : (advance s).host = s.host := rfl
@[simp] theorem advance_draws : (advance s).draws = s.draws := rfl

/-! `takeFault` -/

@[simp] theorem takeFault_cfg (c : FaultCode) : (takeFault c s).cfg = s.cfg := rfl
@[simp] theorem takeFault_fsm (c : FaultCode) : (takeFault c s).fsm = .fault := rfl
@[simp] theorem takeFault_sched (c : FaultCode) : (takeFault c s).sched = .none := rfl
@[simp] theorem takeFault_step (c : FaultCode) : (takeFault c s).step = 0 := rfl
@[simp] theorem takeFault_fcode (c : FaultCode) : (takeFault c s).fcode = c := rfl
@[simp] theorem takeFault_reqRs (c : FaultCode) : (takeFault c s).reqRs = s.reqRs := rfl
@[simp] theorem takeFault_reqByte (c : FaultCode) : (takeFault c s).reqByte = s.reqByte := rfl
@[simp] theorem takeFault_settle (c : FaultCode) : (takeFault c s).settle = s.settle := rfl
@[simp] theorem takeFault_lineRs (c : FaultCode) : (takeFault c s).lineRs = s.lineRs := rfl
@[simp] theorem takeFault_lineE (c : FaultCode) : (takeFault c s).lineE = s.lineE := rfl
@[simp] theorem takeFault_lineD (c : FaultCode) : (takeFault c s).lineD = s.lineD := rfl
@[simp] theorem takeFault_oe (c : FaultCode) : (takeFault c s).oe = s.oe := rfl
@[simp] theorem takeFault_waitRem (c : FaultCode) : (takeFault c s).waitRem = s.waitRem := rfl
@[simp] theorem takeFault_waitFrom (c : FaultCode) : (takeFault c s).waitFrom = s.waitFrom := rfl
@[simp] theorem takeFault_rst (c : FaultCode) : (takeFault c s).rst = s.rst := rfl
@[simp] theorem takeFault_reqValid (c : FaultCode) : (takeFault c s).reqValid = s.reqValid := rfl
@[simp] theorem takeFault_reqWord (c : FaultCode) : (takeFault c s).reqWord = s.reqWord := rfl
@[simp] theorem takeFault_rx (c : FaultCode) : (takeFault c s).rx = s.rx := rfl
@[simp] theorem takeFault_now (c : FaultCode) : (takeFault c s).now = s.now := rfl
@[simp] theorem takeFault_powerUp (c : FaultCode) : (takeFault c s).powerUp = s.powerUp := rfl
@[simp] theorem takeFault_trace (c : FaultCode) : (takeFault c s).trace = s.trace ++ [(s.now, .state .fault)] := rfl
@[simp] theorem takeFault_latched (c : FaultCode) : (takeFault c s).latched = s.latched := rfl
@[simp] theorem takeFault_client (c : FaultCode) : (takeFault c s).client = s.client := rfl
@[simp] theorem takeFault_emitting (c : FaultCode) : (takeFault c s).emitting = s.emitting := rfl
@[simp] theorem takeFault_host (c : FaultCode) : (takeFault c s).host = s.host := rfl
@[simp] theorem takeFault_draws (c : FaultCode) : (takeFault c s).draws = s.draws := rfl

/-! `holdReset` -/

@[simp] theorem holdReset_cfg : (holdReset s).cfg = s.cfg := rfl
@[simp] theorem holdReset_fsm : (holdReset s).fsm = .uninit := rfl
@[simp] theorem holdReset_sched : (holdReset s).sched = .none := rfl
@[simp] theorem holdReset_step : (holdReset s).step = 0 := rfl
@[simp] theorem holdReset_fcode : (holdReset s).fcode = .none := rfl
@[simp] theorem holdReset_reqRs : (holdReset s).reqRs = Config.freeBit s.draws := rfl
@[simp] theorem holdReset_reqByte : (holdReset s).reqByte = Config.freeByte s.draws := rfl
@[simp] theorem holdReset_settle : (holdReset s).settle = Config.freeSettle s.draws := rfl
@[simp] theorem holdReset_lineRs : (holdReset s).lineRs = Config.freeBit (s.draws + 1) := rfl
@[simp] theorem holdReset_lineE : (holdReset s).lineE = Config.freeBit (s.draws + 2) := rfl
@[simp] theorem holdReset_lineD : (holdReset s).lineD = Config.freeNibble s.draws := rfl
@[simp] theorem holdReset_oe : (holdReset s).oe = false := rfl
@[simp] theorem holdReset_waitRem : (holdReset s).waitRem = 0 := rfl
@[simp] theorem holdReset_waitFrom : (holdReset s).waitFrom = none := rfl
@[simp] theorem holdReset_rst : (holdReset s).rst = s.rst := rfl
@[simp] theorem holdReset_reqValid : (holdReset s).reqValid = s.reqValid := rfl
@[simp] theorem holdReset_reqWord : (holdReset s).reqWord = s.reqWord := rfl
@[simp] theorem holdReset_rx : (holdReset s).rx = Receiver.unknown s.powerUp := rfl
@[simp] theorem holdReset_now : (holdReset s).now = s.now + Config.freeDelay s.draws := rfl
@[simp] theorem holdReset_powerUp : (holdReset s).powerUp = s.powerUp := rfl
@[simp] theorem holdReset_trace : (holdReset s).trace = s.trace := rfl
@[simp] theorem holdReset_latched : (holdReset s).latched = s.latched := rfl
@[simp] theorem holdReset_client : (holdReset s).client = s.client := rfl
@[simp] theorem holdReset_emitting : (holdReset s).emitting = s.emitting := rfl
@[simp] theorem holdReset_host : (holdReset s).host = s.host := rfl
@[simp] theorem holdReset_draws : (holdReset s).draws = s.draws + 3 := rfl

/-! `startTx` -/

@[simp] theorem startTx_cfg (r : Bool) (b : Byte) : (startTx r b s).cfg = s.cfg := rfl
@[simp] theorem startTx_fsm (r : Bool) (b : Byte) : (startTx r b s).fsm = s.fsm := rfl
@[simp] theorem startTx_sched (r : Bool) (b : Byte) : (startTx r b s).sched = .tx := rfl
@[simp] theorem startTx_step (r : Bool) (b : Byte) : (startTx r b s).step = 0 := rfl
@[simp] theorem startTx_fcode (r : Bool) (b : Byte) : (startTx r b s).fcode = s.fcode := rfl
@[simp] theorem startTx_reqRs (r : Bool) (b : Byte) : (startTx r b s).reqRs = r := rfl
@[simp] theorem startTx_reqByte (r : Bool) (b : Byte) : (startTx r b s).reqByte = b := rfl
@[simp] theorem startTx_settle (r : Bool) (b : Byte) : (startTx r b s).settle = settleOf s.cfg.longSet r b := rfl
@[simp] theorem startTx_lineRs (r : Bool) (b : Byte) : (startTx r b s).lineRs = s.lineRs := rfl
@[simp] theorem startTx_lineE (r : Bool) (b : Byte) : (startTx r b s).lineE = s.lineE := rfl
@[simp] theorem startTx_lineD (r : Bool) (b : Byte) : (startTx r b s).lineD = s.lineD := rfl
@[simp] theorem startTx_oe (r : Bool) (b : Byte) : (startTx r b s).oe = s.oe := rfl
@[simp] theorem startTx_waitRem (r : Bool) (b : Byte) : (startTx r b s).waitRem = s.waitRem := rfl
@[simp] theorem startTx_waitFrom (r : Bool) (b : Byte) : (startTx r b s).waitFrom = s.waitFrom := rfl
@[simp] theorem startTx_rst (r : Bool) (b : Byte) : (startTx r b s).rst = s.rst := rfl
@[simp] theorem startTx_reqValid (r : Bool) (b : Byte) : (startTx r b s).reqValid = s.reqValid := rfl
@[simp] theorem startTx_reqWord (r : Bool) (b : Byte) : (startTx r b s).reqWord = s.reqWord := rfl
@[simp] theorem startTx_rx (r : Bool) (b : Byte) : (startTx r b s).rx = s.rx := rfl
@[simp] theorem startTx_now (r : Bool) (b : Byte) : (startTx r b s).now = s.now := rfl
@[simp] theorem startTx_powerUp (r : Bool) (b : Byte) : (startTx r b s).powerUp = s.powerUp := rfl
@[simp] theorem startTx_trace (r : Bool) (b : Byte) : (startTx r b s).trace = s.trace := rfl
@[simp] theorem startTx_latched (r : Bool) (b : Byte) : (startTx r b s).latched = s.latched := rfl
@[simp] theorem startTx_client (r : Bool) (b : Byte) : (startTx r b s).client = s.client := rfl
@[simp] theorem startTx_emitting (r : Bool) (b : Byte) : (startTx r b s).emitting = s.emitting := rfl
@[simp] theorem startTx_host (r : Bool) (b : Byte) : (startTx r b s).host = s.host := rfl
@[simp] theorem startTx_draws (r : Bool) (b : Byte) : (startTx r b s).draws = s.draws := rfl

/-! `startInit` -/

@[simp] theorem startInit_cfg : (startInit s).cfg = s.cfg := rfl
@[simp] theorem startInit_fsm : (startInit s).fsm = .boot8 := rfl
@[simp] theorem startInit_sched : (startInit s).sched = .init := rfl
@[simp] theorem startInit_step : (startInit s).step = 0 := rfl
@[simp] theorem startInit_fcode : (startInit s).fcode = s.fcode := rfl
@[simp] theorem startInit_reqRs : (startInit s).reqRs = s.reqRs := rfl
@[simp] theorem startInit_reqByte : (startInit s).reqByte = s.reqByte := rfl
@[simp] theorem startInit_settle : (startInit s).settle = s.settle := rfl
@[simp] theorem startInit_lineRs : (startInit s).lineRs = s.lineRs := rfl
@[simp] theorem startInit_lineE : (startInit s).lineE = s.lineE := rfl
@[simp] theorem startInit_lineD : (startInit s).lineD = s.lineD := rfl
@[simp] theorem startInit_oe : (startInit s).oe = s.oe := rfl
@[simp] theorem startInit_waitRem : (startInit s).waitRem = s.waitRem := rfl
@[simp] theorem startInit_waitFrom : (startInit s).waitFrom = s.waitFrom := rfl
@[simp] theorem startInit_rst : (startInit s).rst = s.rst := rfl
@[simp] theorem startInit_reqValid : (startInit s).reqValid = s.reqValid := rfl
@[simp] theorem startInit_reqWord : (startInit s).reqWord = s.reqWord := rfl
@[simp] theorem startInit_rx : (startInit s).rx = s.rx := rfl
@[simp] theorem startInit_now : (startInit s).now = s.now := rfl
@[simp] theorem startInit_powerUp : (startInit s).powerUp = s.powerUp := rfl
@[simp] theorem startInit_trace : (startInit s).trace = s.trace ++ [(s.now, .state .boot8)] := rfl
@[simp] theorem startInit_latched : (startInit s).latched = s.latched := rfl
@[simp] theorem startInit_client : (startInit s).client = s.client := rfl
@[simp] theorem startInit_emitting : (startInit s).emitting = s.emitting := rfl
@[simp] theorem startInit_host : (startInit s).host = s.host := rfl
@[simp] theorem startInit_draws : (startInit s).draws = s.draws := rfl

/-! `waitBegin` -/

@[simp] theorem waitBegin_cfg (t : Nat) : (waitBegin t s).cfg = s.cfg := rfl
@[simp] theorem waitBegin_fsm (t : Nat) : (waitBegin t s).fsm = s.fsm := rfl
@[simp] theorem waitBegin_sched (t : Nat) : (waitBegin t s).sched = s.sched := rfl
@[simp] theorem waitBegin_step (t : Nat) : (waitBegin t s).step = s.step := rfl
@[simp] theorem waitBegin_fcode (t : Nat) : (waitBegin t s).fcode = s.fcode := rfl
@[simp] theorem waitBegin_reqRs (t : Nat) : (waitBegin t s).reqRs = s.reqRs := rfl
@[simp] theorem waitBegin_reqByte (t : Nat) : (waitBegin t s).reqByte = s.reqByte := rfl
@[simp] theorem waitBegin_settle (t : Nat) : (waitBegin t s).settle = s.settle := rfl
@[simp] theorem waitBegin_lineRs (t : Nat) : (waitBegin t s).lineRs = s.lineRs := rfl
@[simp] theorem waitBegin_lineE (t : Nat) : (waitBegin t s).lineE = s.lineE := rfl
@[simp] theorem waitBegin_lineD (t : Nat) : (waitBegin t s).lineD = s.lineD := rfl
@[simp] theorem waitBegin_oe (t : Nat) : (waitBegin t s).oe = s.oe := rfl
@[simp] theorem waitBegin_waitRem (t : Nat) : (waitBegin t s).waitRem = t - Config.freeDelay s.draws := rfl
@[simp] theorem waitBegin_waitFrom (t : Nat) : (waitBegin t s).waitFrom = some s.now := rfl
@[simp] theorem waitBegin_rst (t : Nat) : (waitBegin t s).rst = s.rst := rfl
@[simp] theorem waitBegin_reqValid (t : Nat) : (waitBegin t s).reqValid = s.reqValid := rfl
@[simp] theorem waitBegin_reqWord (t : Nat) : (waitBegin t s).reqWord = s.reqWord := rfl
@[simp] theorem waitBegin_rx (t : Nat) : (waitBegin t s).rx = s.rx := rfl
@[simp] theorem waitBegin_now (t : Nat) : (waitBegin t s).now = s.now + Config.freeDelay s.draws := rfl
@[simp] theorem waitBegin_powerUp (t : Nat) : (waitBegin t s).powerUp = s.powerUp := rfl
@[simp] theorem waitBegin_trace (t : Nat) : (waitBegin t s).trace = s.trace := rfl
@[simp] theorem waitBegin_latched (t : Nat) : (waitBegin t s).latched = s.latched := rfl
@[simp] theorem waitBegin_client (t : Nat) : (waitBegin t s).client = s.client := rfl
@[simp] theorem waitBegin_emitting (t : Nat) : (waitBegin t s).emitting = s.emitting := rfl
@[simp] theorem waitBegin_host (t : Nat) : (waitBegin t s).host = s.host := rfl
@[simp] theorem waitBegin_draws (t : Nat) : (waitBegin t s).draws = s.draws + 1 := rfl

/-! `waitEnd` -/

@[simp] theorem waitEnd_cfg (t : Nat) : (waitEnd t s).cfg = s.cfg := rfl
@[simp] theorem waitEnd_fsm (t : Nat) : (waitEnd t s).fsm = s.fsm := rfl
@[simp] theorem waitEnd_sched (t : Nat) : (waitEnd t s).sched = s.sched := rfl
@[simp] theorem waitEnd_step (t : Nat) : (waitEnd t s).step = s.step := rfl
@[simp] theorem waitEnd_fcode (t : Nat) : (waitEnd t s).fcode = s.fcode := rfl
@[simp] theorem waitEnd_reqRs (t : Nat) : (waitEnd t s).reqRs = s.reqRs := rfl
@[simp] theorem waitEnd_reqByte (t : Nat) : (waitEnd t s).reqByte = s.reqByte := rfl
@[simp] theorem waitEnd_settle (t : Nat) : (waitEnd t s).settle = s.settle := rfl
@[simp] theorem waitEnd_lineRs (t : Nat) : (waitEnd t s).lineRs = s.lineRs := rfl
@[simp] theorem waitEnd_lineE (t : Nat) : (waitEnd t s).lineE = s.lineE := rfl
@[simp] theorem waitEnd_lineD (t : Nat) : (waitEnd t s).lineD = s.lineD := rfl
@[simp] theorem waitEnd_oe (t : Nat) : (waitEnd t s).oe = s.oe := rfl
@[simp] theorem waitEnd_waitRem (t : Nat) : (waitEnd t s).waitRem = 0 := rfl
@[simp] theorem waitEnd_waitFrom (t : Nat) : (waitEnd t s).waitFrom = none := rfl
@[simp] theorem waitEnd_rst (t : Nat) : (waitEnd t s).rst = s.rst := rfl
@[simp] theorem waitEnd_reqValid (t : Nat) : (waitEnd t s).reqValid = s.reqValid := rfl
@[simp] theorem waitEnd_reqWord (t : Nat) : (waitEnd t s).reqWord = s.reqWord := rfl
@[simp] theorem waitEnd_rx (t : Nat) : (waitEnd t s).rx = s.rx := rfl
@[simp] theorem waitEnd_now (t : Nat) : (waitEnd t s).now = s.now + s.waitRem + Config.freeDelay s.draws := rfl
@[simp] theorem waitEnd_powerUp (t : Nat) : (waitEnd t s).powerUp = s.powerUp := rfl
@[simp] theorem waitEnd_trace (t : Nat) : (waitEnd t s).trace = s.trace ++ [(s.waitFrom.getD s.now, .wait t (s.now + s.waitRem + Config.freeDelay s.draws - s.waitFrom.getD s.now))] := rfl
@[simp] theorem waitEnd_latched (t : Nat) : (waitEnd t s).latched = s.latched := rfl
@[simp] theorem waitEnd_client (t : Nat) : (waitEnd t s).client = s.client := rfl
@[simp] theorem waitEnd_emitting (t : Nat) : (waitEnd t s).emitting = s.emitting := rfl
@[simp] theorem waitEnd_host (t : Nat) : (waitEnd t s).host = s.host := rfl
@[simp] theorem waitEnd_draws (t : Nat) : (waitEnd t s).draws = s.draws + 1 := rfl

/-! `doCfg` -/

@[simp] theorem doCfg_cfg : (doCfg s).cfg = s.cfg := rfl
@[simp] theorem doCfg_fsm : (doCfg s).fsm = s.fsm := rfl
@[simp] theorem doCfg_sched : (doCfg s).sched = s.sched := rfl
@[simp] theorem doCfg_step : (doCfg s).step = s.step := rfl
@[simp] theorem doCfg_fcode : (doCfg s).fcode = s.fcode := rfl
@[simp] theorem doCfg_reqRs : (doCfg s).reqRs = s.reqRs := rfl
@[simp] theorem doCfg_reqByte : (doCfg s).reqByte = s.reqByte := rfl
@[simp] theorem doCfg_settle : (doCfg s).settle = s.settle := rfl
@[simp] theorem doCfg_lineRs : (doCfg s).lineRs = false := rfl
@[simp] theorem doCfg_lineE : (doCfg s).lineE = false := rfl
@[simp] theorem doCfg_lineD : (doCfg s).lineD = 0 := rfl
@[simp] theorem doCfg_oe : (doCfg s).oe = true := rfl
@[simp] theorem doCfg_waitRem : (doCfg s).waitRem = s.waitRem := rfl
@[simp] theorem doCfg_waitFrom : (doCfg s).waitFrom = s.waitFrom := rfl
@[simp] theorem doCfg_rst : (doCfg s).rst = s.rst := rfl
@[simp] theorem doCfg_reqValid : (doCfg s).reqValid = s.reqValid := rfl
@[simp] theorem doCfg_reqWord : (doCfg s).reqWord = s.reqWord := rfl
@[simp] theorem doCfg_rx : (doCfg s).rx = s.rx := rfl
@[simp] theorem doCfg_now : (doCfg s).now = s.now := rfl
@[simp] theorem doCfg_powerUp : (doCfg s).powerUp = s.powerUp := rfl
@[simp] theorem doCfg_trace : (doCfg s).trace = s.trace ++ [(s.now, .cfg)] := rfl
@[simp] theorem doCfg_latched : (doCfg s).latched = s.latched := rfl
@[simp] theorem doCfg_client : (doCfg s).client = s.client := rfl
@[simp] theorem doCfg_emitting : (doCfg s).emitting = s.emitting := rfl
@[simp] theorem doCfg_host : (doCfg s).host = s.host := rfl
@[simp] theorem doCfg_draws : (doCfg s).draws = s.draws := rfl

/-! `doSetRs` -/

@[simp] theorem doSetRs_cfg (v : Bool) : (doSetRs v s).cfg = s.cfg := rfl
@[simp] theorem doSetRs_fsm (v : Bool) : (doSetRs v s).fsm = s.fsm := rfl
@[simp] theorem doSetRs_sched (v : Bool) : (doSetRs v s).sched = s.sched := rfl
@[simp] theorem doSetRs_step (v : Bool) : (doSetRs v s).step = s.step := rfl
@[simp] theorem doSetRs_fcode (v : Bool) : (doSetRs v s).fcode = s.fcode := rfl
@[simp] theorem doSetRs_reqRs (v : Bool) : (doSetRs v s).reqRs = s.reqRs := rfl
@[simp] theorem doSetRs_reqByte (v : Bool) : (doSetRs v s).reqByte = s.reqByte := rfl
@[simp] theorem doSetRs_settle (v : Bool) : (doSetRs v s).settle = s.settle := rfl
@[simp] theorem doSetRs_lineRs (v : Bool) : (doSetRs v s).lineRs = v := rfl
@[simp] theorem doSetRs_lineE (v : Bool) : (doSetRs v s).lineE = s.lineE := rfl
@[simp] theorem doSetRs_lineD (v : Bool) : (doSetRs v s).lineD = s.lineD := rfl
@[simp] theorem doSetRs_oe (v : Bool) : (doSetRs v s).oe = s.oe := rfl
@[simp] theorem doSetRs_waitRem (v : Bool) : (doSetRs v s).waitRem = s.waitRem := rfl
@[simp] theorem doSetRs_waitFrom (v : Bool) : (doSetRs v s).waitFrom = s.waitFrom := rfl
@[simp] theorem doSetRs_rst (v : Bool) : (doSetRs v s).rst = s.rst := rfl
@[simp] theorem doSetRs_reqValid (v : Bool) : (doSetRs v s).reqValid = s.reqValid := rfl
@[simp] theorem doSetRs_reqWord (v : Bool) : (doSetRs v s).reqWord = s.reqWord := rfl
@[simp] theorem doSetRs_rx (v : Bool) : (doSetRs v s).rx = s.rx := rfl
@[simp] theorem doSetRs_now (v : Bool) : (doSetRs v s).now = s.now := rfl
@[simp] theorem doSetRs_powerUp (v : Bool) : (doSetRs v s).powerUp = s.powerUp := rfl
@[simp] theorem doSetRs_trace (v : Bool) : (doSetRs v s).trace = s.trace ++ [(s.now, .lineRs v)] := rfl
@[simp] theorem doSetRs_latched (v : Bool) : (doSetRs v s).latched = s.latched := rfl
@[simp] theorem doSetRs_client (v : Bool) : (doSetRs v s).client = s.client := rfl
@[simp] theorem doSetRs_emitting (v : Bool) : (doSetRs v s).emitting = s.emitting := rfl
@[simp] theorem doSetRs_host (v : Bool) : (doSetRs v s).host = s.host := rfl
@[simp] theorem doSetRs_draws (v : Bool) : (doSetRs v s).draws = s.draws := rfl

/-! `doSetD` -/

@[simp] theorem doSetD_cfg (n : Nibble) : (doSetD n s).cfg = s.cfg := rfl
@[simp] theorem doSetD_fsm (n : Nibble) : (doSetD n s).fsm = s.fsm := rfl
@[simp] theorem doSetD_sched (n : Nibble) : (doSetD n s).sched = s.sched := rfl
@[simp] theorem doSetD_step (n : Nibble) : (doSetD n s).step = s.step := rfl
@[simp] theorem doSetD_fcode (n : Nibble) : (doSetD n s).fcode = s.fcode := rfl
@[simp] theorem doSetD_reqRs (n : Nibble) : (doSetD n s).reqRs = s.reqRs := rfl
@[simp] theorem doSetD_reqByte (n : Nibble) : (doSetD n s).reqByte = s.reqByte := rfl
@[simp] theorem doSetD_settle (n : Nibble) : (doSetD n s).settle = s.settle := rfl
@[simp] theorem doSetD_lineRs (n : Nibble) : (doSetD n s).lineRs = s.lineRs := rfl
@[simp] theorem doSetD_lineE (n : Nibble) : (doSetD n s).lineE = s.lineE := rfl
@[simp] theorem doSetD_lineD (n : Nibble) : (doSetD n s).lineD = n := rfl
@[simp] theorem doSetD_oe (n : Nibble) : (doSetD n s).oe = s.oe := rfl
@[simp] theorem doSetD_waitRem (n : Nibble) : (doSetD n s).waitRem = s.waitRem := rfl
@[simp] theorem doSetD_waitFrom (n : Nibble) : (doSetD n s).waitFrom = s.waitFrom := rfl
@[simp] theorem doSetD_rst (n : Nibble) : (doSetD n s).rst = s.rst := rfl
@[simp] theorem doSetD_reqValid (n : Nibble) : (doSetD n s).reqValid = s.reqValid := rfl
@[simp] theorem doSetD_reqWord (n : Nibble) : (doSetD n s).reqWord = s.reqWord := rfl
@[simp] theorem doSetD_rx (n : Nibble) : (doSetD n s).rx = s.rx := rfl
@[simp] theorem doSetD_now (n : Nibble) : (doSetD n s).now = s.now := rfl
@[simp] theorem doSetD_powerUp (n : Nibble) : (doSetD n s).powerUp = s.powerUp := rfl
@[simp] theorem doSetD_trace (n : Nibble) : (doSetD n s).trace = s.trace ++ [(s.now, .dataLines n)] := rfl
@[simp] theorem doSetD_latched (n : Nibble) : (doSetD n s).latched = s.latched := rfl
@[simp] theorem doSetD_client (n : Nibble) : (doSetD n s).client = s.client := rfl
@[simp] theorem doSetD_emitting (n : Nibble) : (doSetD n s).emitting = s.emitting := rfl
@[simp] theorem doSetD_host (n : Nibble) : (doSetD n s).host = s.host := rfl
@[simp] theorem doSetD_draws (n : Nibble) : (doSetD n s).draws = s.draws := rfl

/-! `doEHi` -/

@[simp] theorem doEHi_cfg : (doEHi s).cfg = s.cfg := rfl
@[simp] theorem doEHi_fsm : (doEHi s).fsm = s.fsm := rfl
@[simp] theorem doEHi_sched : (doEHi s).sched = s.sched := rfl
@[simp] theorem doEHi_step : (doEHi s).step = s.step := rfl
@[simp] theorem doEHi_fcode : (doEHi s).fcode = s.fcode := rfl
@[simp] theorem doEHi_reqRs : (doEHi s).reqRs = s.reqRs := rfl
@[simp] theorem doEHi_reqByte : (doEHi s).reqByte = s.reqByte := rfl
@[simp] theorem doEHi_settle : (doEHi s).settle = s.settle := rfl
@[simp] theorem doEHi_lineRs : (doEHi s).lineRs = s.lineRs := rfl
@[simp] theorem doEHi_lineE : (doEHi s).lineE = true := rfl
@[simp] theorem doEHi_lineD : (doEHi s).lineD = s.lineD := rfl
@[simp] theorem doEHi_oe : (doEHi s).oe = s.oe := rfl
@[simp] theorem doEHi_waitRem : (doEHi s).waitRem = s.waitRem := rfl
@[simp] theorem doEHi_waitFrom : (doEHi s).waitFrom = s.waitFrom := rfl
@[simp] theorem doEHi_rst : (doEHi s).rst = s.rst := rfl
@[simp] theorem doEHi_reqValid : (doEHi s).reqValid = s.reqValid := rfl
@[simp] theorem doEHi_reqWord : (doEHi s).reqWord = s.reqWord := rfl
@[simp] theorem doEHi_rx : (doEHi s).rx = s.rx := rfl
@[simp] theorem doEHi_now : (doEHi s).now = s.now := rfl
@[simp] theorem doEHi_powerUp : (doEHi s).powerUp = s.powerUp := rfl
@[simp] theorem doEHi_trace : (doEHi s).trace = s.trace ++ [(s.now, .lineE true)] := rfl
@[simp] theorem doEHi_latched : (doEHi s).latched = s.latched := rfl
@[simp] theorem doEHi_client : (doEHi s).client = s.client := rfl
@[simp] theorem doEHi_emitting : (doEHi s).emitting = s.emitting := rfl
@[simp] theorem doEHi_host : (doEHi s).host = s.host := rfl
@[simp] theorem doEHi_draws : (doEHi s).draws = s.draws := rfl

/-! `dropE` -/

@[simp] theorem dropE_cfg : (dropE s).cfg = s.cfg := rfl
@[simp] theorem dropE_fsm : (dropE s).fsm = s.fsm := rfl
@[simp] theorem dropE_sched : (dropE s).sched = s.sched := rfl
@[simp] theorem dropE_step : (dropE s).step = s.step := rfl
@[simp] theorem dropE_fcode : (dropE s).fcode = s.fcode := rfl
@[simp] theorem dropE_reqRs : (dropE s).reqRs = s.reqRs := rfl
@[simp] theorem dropE_reqByte : (dropE s).reqByte = s.reqByte := rfl
@[simp] theorem dropE_settle : (dropE s).settle = s.settle := rfl
@[simp] theorem dropE_lineRs : (dropE s).lineRs = s.lineRs := rfl
@[simp] theorem dropE_lineE : (dropE s).lineE = false := rfl
@[simp] theorem dropE_lineD : (dropE s).lineD = s.lineD := rfl
@[simp] theorem dropE_oe : (dropE s).oe = s.oe := rfl
@[simp] theorem dropE_waitRem : (dropE s).waitRem = s.waitRem := rfl
@[simp] theorem dropE_waitFrom : (dropE s).waitFrom = s.waitFrom := rfl
@[simp] theorem dropE_rst : (dropE s).rst = s.rst := rfl
@[simp] theorem dropE_reqValid : (dropE s).reqValid = s.reqValid := rfl
@[simp] theorem dropE_reqWord : (dropE s).reqWord = s.reqWord := rfl
@[simp] theorem dropE_rx : (dropE s).rx = s.rx := rfl
@[simp] theorem dropE_now : (dropE s).now = s.now := rfl
@[simp] theorem dropE_powerUp : (dropE s).powerUp = s.powerUp := rfl
@[simp] theorem dropE_trace : (dropE s).trace = s.trace ++ [(s.now, .lineE false)] := rfl
@[simp] theorem dropE_latched : (dropE s).latched = if s.oe then s.latched ++ [(s.lineRs, s.lineD)] else s.latched := rfl
@[simp] theorem dropE_client : (dropE s).client = s.client := rfl
@[simp] theorem dropE_emitting : (dropE s).emitting = s.emitting := rfl
@[simp] theorem dropE_host : (dropE s).host = s.host := rfl
@[simp] theorem dropE_draws : (dropE s).draws = s.draws := rfl

/-! `doLoad` -/

@[simp] theorem doLoad_cfg (r : Bool) (b : Byte) : (doLoad r b s).cfg = s.cfg := rfl
@[simp] theorem doLoad_fsm (r : Bool) (b : Byte) : (doLoad r b s).fsm = s.fsm := rfl
@[simp] theorem doLoad_sched (r : Bool) (b : Byte) : (doLoad r b s).sched = s.sched := rfl
@[simp] theorem doLoad_step (r : Bool) (b : Byte) : (doLoad r b s).step = s.step := rfl
@[simp] theorem doLoad_fcode (r : Bool) (b : Byte) : (doLoad r b s).fcode = s.fcode := rfl
@[simp] theorem doLoad_reqRs (r : Bool) (b : Byte) : (doLoad r b s).reqRs = r := rfl
@[simp] theorem doLoad_reqByte (r : Bool) (b : Byte) : (doLoad r b s).reqByte = b := rfl
@[simp] theorem doLoad_settle (r : Bool) (b : Byte) : (doLoad r b s).settle = settleOf s.cfg.longSet r b := rfl
@[simp] theorem doLoad_lineRs (r : Bool) (b : Byte) : (doLoad r b s).lineRs = s.lineRs := rfl
@[simp] theorem doLoad_lineE (r : Bool) (b : Byte) : (doLoad r b s).lineE = s.lineE := rfl
@[simp] theorem doLoad_lineD (r : Bool) (b : Byte) : (doLoad r b s).lineD = s.lineD := rfl
@[simp] theorem doLoad_oe (r : Bool) (b : Byte) : (doLoad r b s).oe = s.oe := rfl
@[simp] theorem doLoad_waitRem (r : Bool) (b : Byte) : (doLoad r b s).waitRem = s.waitRem := rfl
@[simp] theorem doLoad_waitFrom (r : Bool) (b : Byte) : (doLoad r b s).waitFrom = s.waitFrom := rfl
@[simp] theorem doLoad_rst (r : Bool) (b : Byte) : (doLoad r b s).rst = s.rst := rfl
@[simp] theorem doLoad_reqValid (r : Bool) (b : Byte) : (doLoad r b s).reqValid = s.reqValid := rfl
@[simp] theorem doLoad_reqWord (r : Bool) (b : Byte) : (doLoad r b s).reqWord = s.reqWord := rfl
@[simp] theorem doLoad_rx (r : Bool) (b : Byte) : (doLoad r b s).rx = s.rx := rfl
@[simp] theorem doLoad_now (r : Bool) (b : Byte) : (doLoad r b s).now = s.now := rfl
@[simp] theorem doLoad_powerUp (r : Bool) (b : Byte) : (doLoad r b s).powerUp = s.powerUp := rfl
@[simp] theorem doLoad_trace (r : Bool) (b : Byte) : (doLoad r b s).trace = s.trace := rfl
@[simp] theorem doLoad_latched (r : Bool) (b : Byte) : (doLoad r b s).latched = s.latched := rfl
@[simp] theorem doLoad_client (r : Bool) (b : Byte) : (doLoad r b s).client = s.client := rfl
@[simp] theorem doLoad_emitting (r : Bool) (b : Byte) : (doLoad r b s).emitting = s.emitting := rfl
@[simp] theorem doLoad_host (r : Bool) (b : Byte) : (doLoad r b s).host = s.host := rfl
@[simp] theorem doLoad_draws (r : Bool) (b : Byte) : (doLoad r b s).draws = s.draws := rfl

/-! `doSetFsm` -/

@[simp] theorem doSetFsm_cfg (f : Fsm) : (doSetFsm f s).cfg = s.cfg := rfl
@[simp] theorem doSetFsm_fsm (f : Fsm) : (doSetFsm f s).fsm = f := rfl
@[simp] theorem doSetFsm_sched (f : Fsm) : (doSetFsm f s).sched = s.sched := rfl
@[simp] theorem doSetFsm_step (f : Fsm) : (doSetFsm f s).step = s.step := rfl
@[simp] theorem doSetFsm_fcode (f : Fsm) : (doSetFsm f s).fcode = s.fcode := rfl
@[simp] theorem doSetFsm_reqRs (f : Fsm) : (doSetFsm f s).reqRs = s.reqRs := rfl
@[simp] theorem doSetFsm_reqByte (f : Fsm) : (doSetFsm f s).reqByte = s.reqByte := rfl
@[simp] theorem doSetFsm_settle (f : Fsm) : (doSetFsm f s).settle = s.settle := rfl
@[simp] theorem doSetFsm_lineRs (f : Fsm) : (doSetFsm f s).lineRs = s.lineRs := rfl
@[simp] theorem doSetFsm_lineE (f : Fsm) : (doSetFsm f s).lineE = s.lineE := rfl
@[simp] theorem doSetFsm_lineD (f : Fsm) : (doSetFsm f s).lineD = s.lineD := rfl
@[simp] theorem doSetFsm_oe (f : Fsm) : (doSetFsm f s).oe = s.oe := rfl
@[simp] theorem doSetFsm_waitRem (f : Fsm) : (doSetFsm f s).waitRem = s.waitRem := rfl
@[simp] theorem doSetFsm_waitFrom (f : Fsm) : (doSetFsm f s).waitFrom = s.waitFrom := rfl
@[simp] theorem doSetFsm_rst (f : Fsm) : (doSetFsm f s).rst = s.rst := rfl
@[simp] theorem doSetFsm_reqValid (f : Fsm) : (doSetFsm f s).reqValid = s.reqValid := rfl
@[simp] theorem doSetFsm_reqWord (f : Fsm) : (doSetFsm f s).reqWord = s.reqWord := rfl
@[simp] theorem doSetFsm_rx (f : Fsm) : (doSetFsm f s).rx = s.rx := rfl
@[simp] theorem doSetFsm_now (f : Fsm) : (doSetFsm f s).now = s.now := rfl
@[simp] theorem doSetFsm_powerUp (f : Fsm) : (doSetFsm f s).powerUp = s.powerUp := rfl
@[simp] theorem doSetFsm_trace (f : Fsm) : (doSetFsm f s).trace = s.trace ++ [(s.now, .state f)] := rfl
@[simp] theorem doSetFsm_latched (f : Fsm) : (doSetFsm f s).latched = s.latched := rfl
@[simp] theorem doSetFsm_client (f : Fsm) : (doSetFsm f s).client = s.client := rfl
@[simp] theorem doSetFsm_emitting (f : Fsm) : (doSetFsm f s).emitting = s.emitting := rfl
@[simp] theorem doSetFsm_host (f : Fsm) : (doSetFsm f s).host = s.host := rfl
@[simp] theorem doSetFsm_draws (f : Fsm) : (doSetFsm f s).draws = s.draws := rfl

/-! `endEmit` -/

@[simp] theorem endEmit_cfg : (endEmit s).cfg = s.cfg := rfl
@[simp] theorem endEmit_fsm : (endEmit s).fsm = s.fsm := rfl
@[simp] theorem endEmit_sched : (endEmit s).sched = s.sched := rfl
@[simp] theorem endEmit_step : (endEmit s).step = s.step := rfl
@[simp] theorem endEmit_fcode : (endEmit s).fcode = s.fcode := rfl
@[simp] theorem endEmit_reqRs : (endEmit s).reqRs = s.reqRs := rfl
@[simp] theorem endEmit_reqByte : (endEmit s).reqByte = s.reqByte := rfl
@[simp] theorem endEmit_settle : (endEmit s).settle = s.settle := rfl
@[simp] theorem endEmit_lineRs : (endEmit s).lineRs = s.lineRs := rfl
@[simp] theorem endEmit_lineE : (endEmit s).lineE = s.lineE := rfl
@[simp] theorem endEmit_lineD : (endEmit s).lineD = s.lineD := rfl
@[simp] theorem endEmit_oe : (endEmit s).oe = s.oe := rfl
@[simp] theorem endEmit_waitRem : (endEmit s).waitRem = s.waitRem := rfl
@[simp] theorem endEmit_waitFrom : (endEmit s).waitFrom = s.waitFrom := rfl
@[simp] theorem endEmit_rst : (endEmit s).rst = s.rst := rfl
@[simp] theorem endEmit_reqValid : (endEmit s).reqValid = s.reqValid := rfl
@[simp] theorem endEmit_reqWord : (endEmit s).reqWord = s.reqWord := rfl
@[simp] theorem endEmit_rx : (endEmit s).rx = s.rx := rfl
@[simp] theorem endEmit_now : (endEmit s).now = s.now := rfl
@[simp] theorem endEmit_powerUp : (endEmit s).powerUp = s.powerUp := rfl
@[simp] theorem endEmit_trace : (endEmit s).trace = s.trace := rfl
@[simp] theorem endEmit_latched : (endEmit s).latched = s.latched := rfl
@[simp] theorem endEmit_client : (endEmit s).client = s.client := rfl
@[simp] theorem endEmit_emitting : (endEmit s).emitting = (s.emitting && !s.reqReady) := rfl
@[simp] theorem endEmit_host : (endEmit s).host = s.host := rfl
@[simp] theorem endEmit_draws : (endEmit s).draws = s.draws := rfl

end Sys2Proof.Laws
end

