-- ==== Sys2Proof/Laws/Machine.lean ====
section
/-! SUPPORT. What the shared operations of one step can do: the environment's turn, a phase of a micro-operation, a group of
phases, an accepted request, and the step itself; and how an invariant of those parts is an invariant of the step. -/

namespace Sys2Proof.Laws

open Sys2Proof.Machine

/-! ### The environment's turn -/

/-- All the client's turn can do: an emit that is over ends, and a ready block with a free port is presented the list's first
word, which it accepts. -/
theorem clientTurn_cases (s : State) :
    clientTurn s = endEmit s
      ∨ ∃ w rest, s.reqReady = true ∧ s.reqValid = false ∧ s.client = w :: rest ∧ (clientTurn s).accepts = true
        ∧ clientTurn s = { s with reqValid := true, reqWord := w, client := rest, emitting := true } := by
  unfold clientTurn
  split
  · rename_i w rest hr hv hc
    exact .inr ⟨w, rest, hr, hv, hc, hr, rfl⟩
  · exact .inl rfl

/-- All the client's turn can change: the port, its own list, and whether an emit of its waits. -/
theorem clientTurn_frame (s : State) :
    clientTurn s = { s with
      reqValid := (clientTurn s).reqValid, reqWord := (clientTurn s).reqWord, client := (clientTurn s).client
      emitting := (clientTurn s).emitting } := by
  obtain e | ⟨_, _, _, _, _, _, e⟩ := clientTurn_cases s
  · rw [e]; rfl
  · rw [e]

/-- The client presents nothing, and its emit goes on waiting, while req_ready = 0. -/
theorem clientTurn_waits {s : State} (h : s.reqReady = false) : clientTurn s = s := by
  obtain e | ⟨_, _, hr, _⟩ := clientTurn_cases s
  · rw [e, endEmit, h]; simp
  · rw [h] at hr; cases hr

/-- The client presents only to a ready block, which accepts the word in the same turn. -/
theorem clientTurn_presents {s : State} (h : (clientTurn s).client ≠ s.client) :
    s.reqReady = true ∧ (clientTurn s).accepts = true := by
  obtain e | ⟨_, _, hr, _, _, ha, _⟩ := clientTurn_cases s
  · exact absurd (by rw [e]; rfl) h
  · exact ⟨hr, ha⟩

/-- A client with nothing to present leaves the port alone; its last emit is over once req_ready is 1. -/
theorem clientTurn_idle {s : State} (h : s.client = []) : clientTurn s = endEmit s := by
  obtain e | ⟨_, _, _, _, hc, _⟩ := clientTurn_cases s
  · exact e
  · rw [h] at hc; cases hc

/-- With nothing scripted by the host, the environment's turn is the client's. -/
theorem envTurn_no_host {s : State} (h : s.host = []) : envTurn s = .next (clientTurn s) := by
  unfold envTurn
  rw [h]

/-- A move of the host touches neither the client's list nor its emit. -/
theorem hostMove_client {m : HostMove} {s t : State} (h : hostMove m s = .next t) :
    t.client = s.client ∧ t.emitting = s.emitting := by
  unfold hostMove at h
  split at h
  · cases h; exact ⟨rfl, rfl⟩
  · cases h; exact ⟨rfl, rfl⟩
  · split at h
    · cases h
    · cases h; exact ⟨rfl, rfl⟩
  · cases h; exact ⟨rfl, rfl⟩
  · cases h; exact ⟨rfl, rfl⟩

/-- With nothing left to present and no emit that still waits, no emit waits after the environment's turn either, whatever the
host does in it (R135). -/
theorem envTurn_done {s t : State} (h : envTurn s = .next t) (hc : s.client = [])
    (he : s.emitting = false ∨ s.reqReady = true) : t.client = [] ∧ t.emitting = false := by
  have ended : (endEmit s).emitting = false := by
    obtain he | he := he <;> simp [endEmit, he]
  unfold envTurn at h
  split at h
  · cases h
    rw [clientTurn_idle hc]
    exact ⟨hc, ended⟩
  · obtain ⟨u, hu, e⟩ := andThen_eq_next h
    cases e
    obtain ⟨c1, c2⟩ := hostMove_client hu
    rw [clientTurn_idle (c1.trans hc)]
    refine ⟨c1.trans hc, ?_⟩
    have hu : u.emitting = false := c2.trans ended
    simp [endEmit, hu]

/-- All the environment's turn can do when it answers a next state: the port, rst, the two scripts, and, before any INIT, the
receiver's power. -/
theorem envTurn_frame {s t : State} (h : envTurn s = .next t) :
    t = { s with
        rst := t.rst, reqValid := t.reqValid, reqWord := t.reqWord, client := t.client, emitting := t.emitting
        host := t.host, powerUp := t.powerUp, rx := t.rx }
      ∧ (t.powerUp = s.powerUp ∧ t.rx = s.rx
        ∨ initAccepted s = false ∧ t.powerUp = s.now ∧ t.rx = Receiver.unknown s.now) := by
  unfold envTurn at h
  split at h
  · cases h
    rw [clientTurn_frame]
    exact ⟨rfl, .inl ⟨rfl, rfl⟩⟩
  · rename_i m rest hh
    obtain ⟨u, hu, hc⟩ := andThen_eq_next h
    cases hc
    rw [clientTurn_frame]
    unfold hostMove at hu
    split at hu
    · cases hu; exact ⟨rfl, .inl ⟨rfl, rfl⟩⟩
    · cases hu; exact ⟨rfl, .inl ⟨rfl, rfl⟩⟩
    · split at hu
      · cases hu
      · rename_i hi
        cases hu
        exact ⟨rfl, .inr ⟨by simpa [initAccepted] using hi, rfl, rfl⟩⟩
    · cases hu; exact ⟨rfl, .inl ⟨rfl, rfl⟩⟩
    · cases hu; exact ⟨rfl, .inl ⟨rfl, rfl⟩⟩

/-! ### A phase of a micro-operation -/

@[simp] theorem runPhase_waitBegin (t : WaitOperand) (s : State) :
    runPhase (.waitBegin t) s = .next (waitBegin (t.value s) s) := rfl

@[simp] theorem runPhase_waitEnd (t : WaitOperand) (s : State) :
    runPhase (.waitEnd t) s = .next (advance (waitEnd (t.value s) s)) := rfl

/-- All a falling edge of E can do when it answers a next state. -/
theorem doELo_frame {s t : State} (h : doELo s = .next t) : t = { dropE s with rx := t.rx, draws := t.draws } := by
  unfold doELo at h
  split at h
  · exact rxLatch_frame h
  · cases h; rfl

/-- All a micro-operation can do when it answers a next state: the registers of R88-R95, and what the receiver makes of a
falling edge. -/
theorem microEffect_cases {m : Micro} {s t : State} (h : microEffect m s = .next t) :
    (m = .cfg ∧ t = doCfg s)
      ∨ (∃ v, m = .setRs v ∧ t = doSetRs (v.value s) s)
      ∨ (∃ n, m = .setD n ∧ t = doSetD (n.value s) s)
      ∨ (m = .eHi ∧ t = doEHi s)
      ∨ (m = .eLo ∧ doELo s = .next t)
      ∨ (∃ w, m = .wait w ∧ t = waitEnd (w.value s) (waitBegin (w.value s) s))
      ∨ (∃ r b, m = .load r b ∧ t = doLoad r b s)
      ∨ (∃ f, m = .setFsm f ∧ t = doSetFsm f s) := by
  unfold microEffect at h
  split at h
  · exact .inl ⟨rfl, by cases h; rfl⟩
  · exact .inr (.inl ⟨_, rfl, by cases h; rfl⟩)
  · exact .inr (.inr (.inl ⟨_, rfl, by cases h; rfl⟩))
  · exact .inr (.inr (.inr (.inl ⟨rfl, by cases h; rfl⟩)))
  · exact .inr (.inr (.inr (.inr (.inl ⟨rfl, h⟩))))
  · exact .inr (.inr (.inr (.inr (.inr (.inl ⟨_, rfl, by cases h; rfl⟩)))))
  · exact .inr (.inr (.inr (.inr (.inr (.inr (.inl ⟨_, _, rfl, by cases h; rfl⟩))))))
  · exact .inr (.inr (.inr (.inr (.inr (.inr (.inr ⟨_, rfl, by cases h; rfl⟩))))))

/-- A whole micro-operation: its effect, the advance of STEP, a duration. -/
theorem runPhase_whole_cases {m : Micro} {s t : State} (h : runPhase (.whole m) s = .next t) :
    ∃ u, microEffect m s = .next u ∧ t = elapse (advance u) := by
  obtain ⟨u, h1, h2⟩ := andThen_eq_next h
  exact ⟨u, h1, by cases h2; rfl⟩

/-- What no phase touches: configuration, ports, environment, OE's and FCODE's companions. -/
theorem runPhase_fixed {p : Phase} {s t : State} (h : runPhase p s = .next t) :
    t.cfg = s.cfg ∧ t.rst = s.rst ∧ t.reqValid = s.reqValid ∧ t.reqWord = s.reqWord ∧ t.client = s.client
      ∧ t.emitting = s.emitting ∧ t.host = s.host ∧ t.powerUp = s.powerUp ∧ t.fcode = s.fcode := by
  cases p with
  | waitBegin w => cases h; simp
  | waitEnd w => cases h; simp
  | whole m =>
    obtain ⟨u, h1, rfl⟩ := runPhase_whole_cases h
    obtain ⟨_, rfl⟩ | ⟨_, _, rfl⟩ | ⟨_, _, rfl⟩ | ⟨_, rfl⟩ | ⟨_, h2⟩ | ⟨_, _, rfl⟩ | ⟨_, _, _, rfl⟩ | ⟨_, _, rfl⟩ :=
      microEffect_cases h1
    all_goals first | (simp; done) | (rw [doELo_frame h2]; simp)

/-- A micro-operation that is no falling edge leaves the receiver alone. -/
theorem microEffect_rx {m : Micro} {s t : State} (h : microEffect m s = .next t) (ne : m ≠ .eLo) : t.rx = s.rx := by
  obtain ⟨_, rfl⟩ | ⟨_, _, rfl⟩ | ⟨_, _, rfl⟩ | ⟨_, rfl⟩ | ⟨e, _⟩ | ⟨_, _, rfl⟩ | ⟨_, _, _, rfl⟩ | ⟨_, _, rfl⟩ :=
    microEffect_cases h
  all_goals first | rfl | exact absurd e ne

/-! ### A group of phases -/

/-- A group answers a next state by running its phases in turn, unless a reset falls between two of them. -/
theorem runGroup_cons_cases {p q : Phase} {rest : List Phase} {s t : State}
    (h : runGroup (p :: q :: rest) s = .next t) :
    ∃ u v, runPhase p s = .next u ∧ envTurn u = .next v
      ∧ (v.rst = true ∧ t = holdReset v ∨ v.rst = false ∧ runGroup (q :: rest) v = .next t) := by
  obtain ⟨u, h1, h2⟩ := andThen_eq_next h
  obtain ⟨v, h3, h4⟩ := andThen_eq_next h2
  refine ⟨u, v, h1, h3, ?_⟩
  cases hr : v.rst with
  | true => rw [hr] at h4; cases h4; exact .inl ⟨rfl, rfl⟩
  | false => rw [hr] at h4; exact .inr ⟨rfl, h4⟩

/-- What every phase of a group, environment's turn and reset keeps, the group keeps. -/
theorem runGroup_keeps {P : State → Prop}
    (env : ∀ s t, P s → envTurn s = .next t → P t) (reset : ∀ s, P s → P (holdReset s))
    (ps : List Phase) (phase : ∀ p ∈ ps, ∀ s t, P s → runPhase p s = .next t → P t) (s t : State) (hP : P s)
    (h : runGroup ps s = .next t) : P t := by
  induction ps generalizing s with
  | nil => cases h; exact hP
  | cons p rest ih =>
    cases rest with
    | nil => exact phase p (List.mem_singleton.mpr rfl) s t hP h
    | cons q rest =>
      obtain ⟨u, v, h1, h2, h3⟩ := runGroup_cons_cases h
      have hv := env u v (phase p List.mem_cons_self s u hP h1) h2
      obtain ⟨_, rfl⟩ | ⟨_, h4⟩ := h3
      · exact reset v hv
      · exact ih (fun r hr => phase r (List.mem_cons_of_mem p hr)) v hv h4

/-! ### An accepted request -/

/-- A request always answers a next state: a schedule started, or a fault taken. -/
theorem request_cases (w : ReqWord) (s : State) :
    (decodeReq w = .init ∧ s.fsm = .uninit ∧ exec (decodeReq w) s = .next (startInit s))
      ∨ (∃ b, decodeReq w = .cmd b ∧ s.fsm = .ready ∧ exec (decodeReq w) s = .next (startTx false b s))
      ∨ (∃ b, decodeReq w = .data b ∧ s.fsm = .ready ∧ exec (decodeReq w) s = .next (startTx true b s))
      ∨ (∃ c, c ≠ .none ∧ exec (decodeReq w) s = .next (takeFault c s)) := by
  unfold decodeReq
  split
  · split
    · by_cases f : s.fsm = .uninit
      · exact .inl ⟨rfl, f, by simp [exec, execInit, f]⟩
      · exact .inr (.inr (.inr ⟨.reinit, by decide, by simp [exec, execInit, f]⟩))
    · exact .inr (.inr (.inr ⟨.reservedReq, by decide, rfl⟩))
  · split
    · by_cases f : s.fsm = .ready
      · exact .inr (.inr (.inl ⟨_, rfl, f, by simp [exec, execData, transferRequest, f]⟩))
      · exact .inr (.inr (.inr ⟨.notReady, by decide, by simp [exec, execData, transferRequest, f]⟩))
    · by_cases f : s.fsm = .ready
      · exact .inr (.inl ⟨_, rfl, f, by simp [exec, execCmd, transferRequest, f]⟩)
      · exact .inr (.inr (.inr ⟨.notReady, by decide, by simp [exec, execCmd, transferRequest, f]⟩))

/-! ### The step -/

/-- All a step can do when it answers a next state: the environment's turn u, a legal configuration, and a turn of the
block. -/
theorem step_cases {s t : State} (h : step s = .next t) :
    ∃ u, envTurn s = .next u ∧ configLegal u.cfg = true ∧ blockTurn u = .next t := by
  obtain ⟨u, h1, h2⟩ := andThen_eq_next h
  split at h2
  · exact ⟨u, h1, ‹_›, h2⟩
  · cases h2

/-- All a turn of the block can do when it answers a next state. -/
theorem blockTurn_cases {s t : State} (h : blockTurn s = .next t) :
    (s.rst = true ∧ t = holdReset s)
      ∨ (s.rst = false ∧ s.sched ≠ .none ∧ scheduleTurn s = .next t)
      ∨ (s.rst = false ∧ s.sched = .none ∧ s.accepts = true
          ∧ ∃ u, exec (decodeReq s.reqWord) { s with reqValid := false } = .next u ∧ t = elapse u)
      ∨ (s.rst = false ∧ s.sched = .none ∧ s.accepts = false ∧ t = elapse s) := by
  unfold blockTurn at h
  by_cases hr : s.rst = true
  · simp [hr] at h; exact .inl ⟨hr, h.symm⟩
  · have hr : s.rst = false := by simpa using hr
    simp only [hr, Bool.false_eq_true, if_false] at h
    by_cases hs : s.sched = .none
    · simp only [hs, ne_eq, not_true_eq_false, if_false] at h
      split at h
      · obtain ⟨u, h1, h2⟩ := andThen_eq_next h
        exact .inr (.inr (.inl ⟨hr, hs, ‹_›, u, h1, by cases h2; rfl⟩))
      · rename_i ha
        exact .inr (.inr (.inr ⟨hr, hs, by simpa using ha, by cases h; rfl⟩))
    · simp only [ne_eq, hs, not_false_eq_true, if_true] at h
      exact .inr (.inl ⟨hr, hs, h⟩)

/-- The single-nibble instruction at pc, if one begins there. -/
theorem fetchNibble_cases {s : State} {i : Instr} (h : fetchNibble s = some i) :
    s.sched = .init ∧ ((s.step = 4 ∨ s.step = 11 ∨ s.step = 18) ∧ i = .bootFuncset8bit
      ∨ s.step = 25 ∧ i = .switch4bit) := by
  unfold fetchNibble nibbleAt at h
  split at h
  · rename_i hs
    refine ⟨hs, ?_⟩
    split at h
    · exact .inl ⟨‹_›, by simpa [decodeNib, Except.toOption] using h.symm⟩
    · split at h
      · exact .inr ⟨‹_›, by simpa [decodeNib, Except.toOption] using h.symm⟩
      · cases h
  · cases h

/-- All a turn inside a schedule can do when it answers a next state. -/
theorem scheduleTurn_cases {s t : State} (h : scheduleTurn s = .next t) :
    (fetchNibble s = some .bootFuncset8bit ∧ execBootFuncset8bit s = .next t)
      ∨ (fetchNibble s = some .switch4bit ∧ execSwitch4bit s = .next t)
      ∨ (fetchNibble s = none ∧ ∃ m, s.sched.steps[s.step]? = some m ∧ runPhase (m.duePhase s) s = .next t) := by
  unfold scheduleTurn at h
  split at h
  · rename_i i hi
    obtain ⟨_, ⟨_, rfl⟩ | ⟨_, rfl⟩⟩ := fetchNibble_cases hi
    · exact .inl ⟨hi, h⟩
    · exact .inr (.inl ⟨hi, h⟩)
  · rename_i hn
    split at h
    · rename_i m hm
      exact .inr (.inr ⟨hn, m, hm, h⟩)
    · cases h

/-- What every part of a step keeps, the step keeps: the environment's turn, a reset, a phase, the start of a schedule, a
fault, and the passing of time. -/
theorem step_keeps {P : State → Prop}
    (env : ∀ s t, P s → envTurn s = .next t → P t) (reset : ∀ s, P s → P (holdReset s))
    (phase : ∀ p s t, P s → runPhase p s = .next t → P t)
    (request : ∀ w s t, P s → exec (decodeReq w) { s with reqValid := false } = .next t → P t)
    (time : ∀ s, P s → P (elapse s)) {s t : State} (hP : P s) (h : step s = .next t) : P t := by
  obtain ⟨u, h1, _, h2⟩ := step_cases h
  have hu := env s u hP h1
  obtain ⟨_, rfl⟩ | ⟨_, _, h3⟩ | ⟨_, _, _, v, h3, rfl⟩ | ⟨_, _, _, rfl⟩ := blockTurn_cases h2
  · exact reset u hu
  · obtain ⟨_, h4⟩ | ⟨_, h4⟩ | ⟨_, m, _, h4⟩ := scheduleTurn_cases h3
    · exact runGroup_keeps env reset _ (fun p _ => phase p) u t hu h4
    · exact runGroup_keeps env reset _ (fun p _ => phase p) u t hu h4
    · exact phase _ u t hu h4
  · exact time v (request _ u v hu h3)
  · exact time u hu

/-! ### Invariants that know the schedule -/

/-- A WAIT, the one micro-operation of two phases. -/
def isWait : Micro → Bool
  | .wait _ => true
  | .cfg | .setRs _ | .setD _ | .eHi | .eLo | .load _ _ | .setFsm _ => false

/-- A phase that is due ends with STEP advanced and no wait, or in the wait it began. -/
theorem duePhase_advances {m : Micro} {s t : State} (h : runPhase (m.duePhase s) s = .next t) :
    (∃ w, m = .wait w ∧ s.waitFrom = none ∧ t = waitBegin (w.value s) s)
      ∨ (t.sched = (advance s).sched ∧ t.step = (advance s).step
        ∧ t.waitFrom = if isWait m then none else s.waitFrom) := by
  cases m with
  | wait w =>
    simp only [Micro.duePhase] at h
    split at h
    · cases h; exact .inl ⟨w, rfl, by simpa using ‹s.waitFrom.isNone = true›, rfl⟩
    · cases h; exact .inr ⟨rfl, rfl, rfl⟩
  | cfg => cases h; exact .inr ⟨rfl, rfl, rfl⟩
  | setRs v => cases h; exact .inr ⟨rfl, rfl, rfl⟩
  | setD n => cases h; exact .inr ⟨rfl, rfl, rfl⟩
  | eHi => cases h; exact .inr ⟨rfl, rfl, rfl⟩
  | load r b => cases h; exact .inr ⟨rfl, rfl, rfl⟩
  | setFsm f => cases h; exact .inr ⟨rfl, rfl, rfl⟩
  | eLo =>
    obtain ⟨u, h1, rfl⟩ := runPhase_whole_cases h
    have hu : doELo s = .next u := h1
    rw [doELo_frame hu]
    exact .inr ⟨rfl, rfl, rfl⟩

/-- All a due phase can do: a WAIT begun, a WAIT ended, or a whole micro-operation. -/
theorem duePhase_cases {m : Micro} {s t : State} (h : runPhase (m.duePhase s) s = .next t) :
    (∃ w, m = .wait w ∧ s.waitFrom = none ∧ t = waitBegin (w.value s) s)
      ∨ (∃ w, m = .wait w ∧ s.waitFrom ≠ none ∧ t = advance (waitEnd (w.value s) s))
      ∨ (isWait m = false ∧ ∃ u, microEffect m s = .next u ∧ t = elapse (advance u)) := by
  cases m with
  | wait w =>
    simp only [Micro.duePhase] at h
    split at h
    · cases h; exact .inl ⟨w, rfl, by simpa using ‹s.waitFrom.isNone = true›, rfl⟩
    · cases h; exact .inr (.inl ⟨w, rfl, by simpa using ‹¬s.waitFrom.isNone = true›, rfl⟩)
  | _ => exact .inr (.inr ⟨rfl, runPhase_whole_cases h⟩)

/-- STEP advances inside a schedule, or the schedule ends. -/
theorem advance_cases {s : State} {m : Micro} (h : s.sched.steps[s.step]? = some m) :
    (s.step + 1 < s.sched.steps.length ∧ (advance s).sched = s.sched ∧ (advance s).step = s.step + 1)
      ∨ (s.step + 1 = s.sched.steps.length ∧ (advance s).sched = .none ∧ (advance s).step = 0) := by
  have := (List.getElem?_eq_some_iff.mp h).1
  by_cases hl : s.step + 1 < s.sched.steps.length
  · exact .inl ⟨hl, by simp [nextPc_mid hl], by simp [nextPc_mid hl]⟩
  · exact .inr ⟨by omega, by simp [nextPc_end (Nat.le_of_not_lt hl)], by simp [nextPc_end (Nat.le_of_not_lt hl)]⟩

/-- What every due phase, environment's turn and reset keeps, a group of the INIT schedule keeps that begins where it
stands in the schedule, with no wait in progress. -/
theorem initGroup_keeps {P : State → Prop}
    (env : ∀ s t, P s → envTurn s = .next t → P t) (reset : ∀ s, P s → P (holdReset s))
    (due : ∀ m s t, P s → s.sched.steps[s.step]? = some m → runPhase (m.duePhase s) s = .next t → P t)
    (ops rest : List Micro) (nonempty : rest ≠ []) (s t : State) (hP : P s) (hs : s.sched = .init)
    (at_pc : initSchedule.drop s.step = ops ++ rest) (hw : s.waitFrom = none)
    (h : runGroup (ops.flatMap Micro.phases) s = .next t) : P t := by
  induction ops generalizing s with
  | nil => cases h; exact hP
  | cons m ops ih =>
    have hm : s.sched.steps[s.step]? = some m := by
      have := congrArg (fun l => l[0]?) at_pc
      simpa [hs, Sched.steps] using this
    have hlen : s.step + 1 < s.sched.steps.length := by
      have := congrArg List.length at_pc
      have hr : 0 < rest.length := List.length_pos_iff.mpr nonempty
      simp only [List.length_drop, List.length_append, List.length_cons] at this
      simp only [hs, Sched.steps]
      omega
    have next_pc : initSchedule.drop (s.step + 1) = ops ++ rest := by
      have := congrArg (List.drop 1) at_pc
      simpa [List.drop_drop, Nat.add_comm] using this
    -- one phase that ends the micro-operation, then the rest of the group
    have finish : ∀ (p : Phase) (u : State), P u → u.sched = .init → u.step = s.step →
        (∀ v, runPhase p u = .next v → P v ∧ v.sched = .init ∧ v.step = s.step + 1 ∧ v.waitFrom = none) →
        runGroup (p :: ops.flatMap Micro.phases) u = .next t → P t := by
      intro p u hu hus hust hp hg
      cases hf : ops.flatMap Micro.phases with
      | nil =>
        rw [hf] at hg
        exact (hp t hg).1
      | cons q qs =>
        rw [hf] at hg
        obtain ⟨v, x, h1, h2, h3⟩ := runGroup_cons_cases hg
        obtain ⟨hv, hvs, hvst, hvw⟩ := hp v h1
        have hx := env v x hv h2
        have fx := (envTurn_frame h2).1
        obtain ⟨_, rfl⟩ | ⟨_, h4⟩ := h3
        · exact reset x hx
        · refine ih x hx ?_ ?_ ?_ ?_
          · rw [fx]; exact hvs
          · rw [fx]; simpa [hvst] using next_pc
          · rw [fx]; exact hvw
          · rw [hf]; exact h4
    have ended : ∀ (u v : State), P u → u.sched = .init → u.step = s.step →
        (isWait m = false → u.waitFrom = none) → (∀ w, m = .wait w → u.waitFrom ≠ none) →
        runPhase (m.duePhase u) u = .next v → P v ∧ v.sched = .init ∧ v.step = s.step + 1 ∧ v.waitFrom = none := by
      intro u v hu hus hust hor hne hp
      have hmu : u.sched.steps[u.step]? = some m := by rw [hus, hust, ← hs]; exact hm
      refine ⟨due m u v hu hmu hp, ?_⟩
      obtain ⟨w, hw1, hw2, _⟩ | ⟨h1, h2, h3⟩ := duePhase_advances hp
      · exact absurd hw2 (hne w hw1)
      · have hl : u.step + 1 < u.sched.steps.length := by rw [hus, hust, ← hs]; exact hlen
        simp only [advance_sched, advance_step, nextPc_mid hl] at h1 h2
        refine ⟨by rw [h1, hus], by rw [h2, hust], ?_⟩
        rw [h3]
        split
        · rfl
        · rename_i hno
          exact hor (by simpa using hno)
    by_cases hwait : ∃ w, m = .wait w
    · obtain ⟨w, rfl⟩ := hwait
      simp only [List.flatMap_cons, Micro.phases, List.cons_append, List.nil_append] at h
      obtain ⟨u, v, h1, h2, h3⟩ := runGroup_cons_cases h
      have hu : P u := due (.wait w) s u hP hm (by simpa [Micro.duePhase, hw] using h1)
      have hv := env u v hu h2
      have fv := (envTurn_frame h2).1
      obtain ⟨_, rfl⟩ | ⟨_, h4⟩ := h3
      · exact reset v hv
      · cases h1
        have hvs : v.sched = .init := by rw [fv]; simpa using hs
        have hvst : v.step = s.step := by rw [fv]; simp
        have hvw : v.waitFrom ≠ none := by rw [fv]; simp
        refine finish _ v hv hvs hvst (fun x hx => ended v x hv hvs hvst (fun e => by cases e) (fun _ _ => hvw) ?_) h4
        simpa [Micro.duePhase, hvw] using hx
    · have hph : Micro.phases m = [m.duePhase s] := by
        cases m <;> first | rfl | exact absurd ⟨_, rfl⟩ hwait
      simp only [List.flatMap_cons, hph, List.cons_append, List.nil_append] at h
      exact finish _ s hP hs rfl
        (fun v hv => ended s v hP hs rfl (fun _ => hw) (fun w e => absurd ⟨w, e⟩ hwait) hv) h

/-- A request is accepted exactly with req_valid = 1, no schedule, no FAULT and rst = 0 (R24). -/
theorem accepts_iff {s : State} :
    s.accepts = true ↔ s.reqValid = true ∧ s.sched = .none ∧ s.fsm ≠ .fault ∧ s.rst = false := by
  simp [State.accepts, State.reqReady, and_assoc]

/-- What every due phase, environment's turn and reset keeps, a turn inside a schedule keeps; for an invariant under which no
wait is in progress where a single nibble's group begins. -/
theorem scheduleTurn_keeps_due {P : State → Prop}
    (env : ∀ s t, P s → envTurn s = .next t → P t) (reset : ∀ s, P s → P (holdReset s))
    (due : ∀ m s t, P s → s.sched.steps[s.step]? = some m → runPhase (m.duePhase s) s = .next t → P t)
    (noWait : ∀ s, P s → fetchNibble s ≠ none → s.waitFrom = none)
    {s t : State} (hP : P s) (h : scheduleTurn s = .next t) : P t := by
  obtain ⟨hf, h4⟩ | ⟨hf, h4⟩ | ⟨_, m, hm, h4⟩ := scheduleTurn_cases h
  · have hw := noWait s hP (by rw [hf]; simp)
    obtain ⟨hs, ⟨hst, _⟩ | ⟨_, hi⟩⟩ := fetchNibble_cases hf
    · unfold execBootFuncset8bit at h4
      obtain hst | hst | hst := hst
      · rw [hst] at h4
        exact initGroup_keeps env reset due _ (initSchedule.drop 11) (by decide) s t hP hs (by rw [hst]; decide) hw h4
      · rw [hst] at h4
        exact initGroup_keeps env reset due _ (initSchedule.drop 18) (by decide) s t hP hs (by rw [hst]; decide) hw h4
      · rw [hst] at h4
        exact initGroup_keeps env reset due _ (initSchedule.drop 25) (by decide) s t hP hs (by rw [hst]; decide) hw h4
    · cases hi
  · have hw := noWait s hP (by rw [hf]; simp)
    obtain ⟨hs, ⟨_, hi⟩ | ⟨hst, _⟩⟩ := fetchNibble_cases hf
    · cases hi
    · exact initGroup_keeps env reset due _ (initSchedule.drop 33) (by decide) s t hP hs (by rw [hst]; decide) hw h4
  · exact due m s t hP hm h4

/-- What every due phase, and every other part of a step, keeps, the step keeps; for an invariant under which no wait is in
progress where a single nibble's group begins. -/
theorem step_keeps_due {P : State → Prop}
    (env : ∀ s t, P s → envTurn s = .next t → P t) (reset : ∀ s, P s → P (holdReset s))
    (due : ∀ m s t, P s → s.sched.steps[s.step]? = some m → runPhase (m.duePhase s) s = .next t → P t)
    (noWait : ∀ s, P s → fetchNibble s ≠ none → s.waitFrom = none)
    (request : ∀ s t, P s → s.accepts = true →
      exec (decodeReq s.reqWord) { s with reqValid := false } = .next t → P (elapse t))
    (time : ∀ s, P s → s.sched = .none → P (elapse s)) {s t : State} (hP : P s) (h : step s = .next t) : P t := by
  obtain ⟨u, h1, _, h2⟩ := step_cases h
  have hu := env s u hP h1
  obtain ⟨_, rfl⟩ | ⟨_, _, h3⟩ | ⟨_, _, ha, v, h3, rfl⟩ | ⟨_, hn, _, rfl⟩ := blockTurn_cases h2
  · exact reset u hu
  · exact scheduleTurn_keeps_due env reset due noWait hu h3
  · exact request u v hu ha h3
  · exact time u hu hn

end Sys2Proof.Laws
end

