-- ==== Sys2Proof/Laws/Memory.lean ====
section
/-! SUPPORT. The receiver's memories: reading after writing, and the canonical form every operation keeps. -/

namespace Sys2Proof.Laws

open Sys2Proof.Machine

theorem readCells_writeCells_self (a : Nat) (v : Byte) (l : List Host.Cell) :
    readCells a (writeCells a v l) = some v := by
  induction l with
  | nil => simp [writeCells, readCells]
  | cons c rest ih =>
    obtain ⟨k, x⟩ := c
    by_cases h : a < k
    · simp [writeCells, readCells, h]
    · by_cases e : a = k
      · simp [writeCells, readCells, e]
      · have e' : ¬k = a := fun q => e q.symm
        simp [writeCells, readCells, h, e, e', ih]

theorem readCells_writeCells_ne {a a' : Nat} (ne : a' ≠ a) (v : Byte) (l : List Host.Cell) :
    readCells a' (writeCells a v l) = readCells a' l := by
  have ne' : ¬a = a' := fun q => ne q.symm
  induction l with
  | nil => simp [writeCells, readCells, ne']
  | cons c rest ih =>
    obtain ⟨k, x⟩ := c
    by_cases h : a < k
    · simp [writeCells, readCells, h, ne']
    · by_cases e : a = k
      · subst e
        simp [writeCells, readCells, ne']
      · simp [writeCells, readCells, h, e, ih]

theorem risingCells_writeCells {lo hi a : Nat} (v : Byte) (l : List Host.Cell)
    (low : lo ≤ a) (high : a < hi) (w : risingCells lo hi l = true) :
    risingCells lo hi (writeCells a v l) = true := by
  induction l generalizing lo with
  | nil => simp [writeCells, risingCells, low, high]
  | cons c rest ih =>
    obtain ⟨k, x⟩ := c
    simp only [risingCells, Bool.and_eq_true, decide_eq_true_eq] at w
    obtain ⟨⟨w1, w2⟩, w3⟩ := w
    by_cases h : a < k
    · simp [writeCells, risingCells, h, low, high, w2, w3, Nat.succ_le_of_lt h]
    · by_cases e : a = k
      · subst e
        simp [writeCells, risingCells, low, high, w3]
      · have hk : k + 1 ≤ a := by omega
        simp [writeCells, risingCells, h, e, w1, w2, ih hk w3]

/-! ### DDRAM and CGRAM -/

@[simp] theorem ddAt_writeDd_self (m : Memory) (a : BitVec 7) (b : Byte) :
    (m.writeDd a b).ddAt a = .byte b := by
  simp [Memory.ddAt, Memory.writeDd, readCells_writeCells_self]

theorem ddAt_writeDd_ne (m : Memory) {a a' : BitVec 7} (b : Byte) (ne : a' ≠ a) :
    (m.writeDd a b).ddAt a' = m.ddAt a' := by
  have h : a'.toNat ≠ a.toNat := fun q => ne (BitVec.eq_of_toNat_eq q)
  simp [Memory.ddAt, Memory.writeDd, readCells_writeCells_ne h]

@[simp] theorem cgAt_writeDd (m : Memory) (a : BitVec 7) (b : Byte) (a' : BitVec 6) :
    (m.writeDd a b).cgAt a' = m.cgAt a' := rfl

@[simp] theorem cgAt_writeCg_self (m : Memory) (a : BitVec 6) (b : Byte) :
    (m.writeCg a b).cgAt a = some b := by
  simp [Memory.cgAt, Memory.writeCg, readCells_writeCells_self]

theorem cgAt_writeCg_ne (m : Memory) {a a' : BitVec 6} (b : Byte) (ne : a' ≠ a) :
    (m.writeCg a b).cgAt a' = m.cgAt a' := by
  have h : a'.toNat ≠ a.toNat := fun q => ne (BitVec.eq_of_toNat_eq q)
  simp [Memory.cgAt, Memory.writeCg, readCells_writeCells_ne h]

@[simp] theorem ddAt_writeCg (m : Memory) (a : BitVec 6) (b : Byte) (a' : BitVec 7) :
    (m.writeCg a b).ddAt a' = m.ddAt a' := rfl

@[simp] theorem ddAt_clearDd (m : Memory) (a : BitVec 7) : m.clearDd.ddAt a = .blank := rfl

@[simp] theorem cgAt_clearDd (m : Memory) (a : BitVec 6) : m.clearDd.cgAt a = m.cgAt a := rfl

@[simp] theorem ddAt_unknown (a : BitVec 7) : Memory.unknown.ddAt a = .unknown := rfl

@[simp] theorem cgAt_unknown (a : BitVec 6) : Memory.unknown.cgAt a = none := rfl

/-! ### The canonical form -/

@[simp] theorem wf_unknown : Memory.unknown.wf = true := rfl

theorem wf_writeDd {m : Memory} (w : m.wf = true) (a : BitVec 7) (b : Byte) : (m.writeDd a b).wf = true := by
  simp only [Memory.wf, Bool.and_eq_true] at w ⊢
  exact ⟨risingCells_writeCells b m.dd (Nat.zero_le _) a.isLt w.1, w.2⟩

theorem wf_writeCg {m : Memory} (w : m.wf = true) (a : BitVec 6) (b : Byte) : (m.writeCg a b).wf = true := by
  simp only [Memory.wf, Bool.and_eq_true] at w ⊢
  exact ⟨w.1, risingCells_writeCells b m.cg (Nat.zero_le _) a.isLt w.2⟩

theorem wf_clearDd {m : Memory} (w : m.wf = true) : m.clearDd.wf = true := by
  simp only [Memory.wf, Bool.and_eq_true] at w ⊢
  exact ⟨rfl, w.2⟩

theorem wf_reset : State.reset.rx.mem.wf = true := rfl

end Sys2Proof.Laws
end

