-- ==== Sys2Proof/Laws/PerInstr.lean ====
section
/-! SUPPORT. What holds of every instruction as syntax: its word lies under its own row of the opcode table. -/

namespace Sys2Proof.Laws.Row

open Sys2Proof.Safety

/-- The word of a well-formed instruction has the form and the fixed bits of its row of spec/opcode_table.json. -/
def Statement (i : Instr) : Prop :=
  i.wellFormed = true → formOf (encode i) = (rowOf i).form ∧ (rowOf i).covers (codeNumber (encode i)) = true

theorem init : Statement .init := fun _ => by decide

theorem reservedReq (w : BitVec 9) : Statement (.reservedReq w) := fun _ => by revert w; decide +kernel

theorem cmd (b : Byte) : Statement (.cmd b) := fun _ => by revert b; decide +kernel

theorem data (b : Byte) : Statement (.data b) := fun _ => by revert b; decide +kernel

theorem functionSet : Statement .functionSet := fun _ => by decide

theorem functionSetOther (x : BitVec 5) : Statement (.functionSetOther x) := fun _ => by revert x; decide +kernel

theorem cursorShiftLeft : Statement .cursorShiftLeft := fun _ => by decide

theorem cursorShiftRight : Statement .cursorShiftRight := fun _ => by decide

theorem displayShiftLeft : Statement .displayShiftLeft := fun _ => by decide

theorem displayShiftRight : Statement .displayShiftRight := fun _ => by decide

theorem shiftOther (x : BitVec 4) : Statement (.shiftOther x) := fun _ => by revert x; decide +kernel

theorem displayControl (d c k : Bool) : Statement (.displayControl d c k) := fun _ => by revert d c k; decide +kernel

theorem entryModeSet : Statement .entryModeSet := fun _ => by decide

theorem entryModeOther (x : BitVec 2) : Statement (.entryModeOther x) := fun _ => by revert x; decide +kernel

theorem instr02Or03 (x : Bool) : Statement (.instr02Or03 x) := fun _ => by revert x; decide +kernel

theorem clearDisplay : Statement .clearDisplay := fun _ => by decide

theorem instr00 : Statement .instr00 := fun _ => by decide

theorem setCgramAddr (a : BitVec 6) : Statement (.setCgramAddr a) := fun _ => by revert a; decide +kernel

theorem setDdramAddr (a : BitVec 7) : Statement (.setDdramAddr a) := fun _ => by revert a; decide +kernel

theorem writeData (b : Byte) : Statement (.writeData b) := fun _ => by revert b; decide +kernel

theorem bootFuncset8bit : Statement .bootFuncset8bit := fun _ => by decide

theorem switch4bit : Statement .switch4bit := fun _ => by decide

end Sys2Proof.Laws.Row
end

