-- ==== Sys2Proof/Machine/Display.lean ====
section
/-! DEFINITION. What is visible (spec/10_state.md R31, R32, 44_instruction_bytes.md R177-R179): functions of the receiver's
state.  Nothing the block does reads them (R213). -/

namespace Sys2Proof.Machine

/-- The cursor's position (column, row), a function of AC while TARGET = DD; for any other AC the source gives none (R31). -/
def cursorPosition (r : Receiver) : Option (Nat × Nat) :=
  match r.target, r.ac with
  | some .dd, some a => if inVis a then some (column a, a.toNat / 0x40) else none
  | _, _ => none

/-- What a position of the display shows. -/
inductive Shown where
  /-- DISP = 0 -/
  | nothing
  /-- the glyph of a cell; its shape is out of scope (R5) -/
  | glyphOf (c : DdCell)
  /-- not in the source, or not known -/
  | unknown
  deriving DecidableEq, Repr

/-- The visible positions are those of the 16x2 display (R54). -/
def isPosition (col row : Nat) : Bool := decide (col < 16) && decide (row < 2)

/-- What position (col, row) shows (R177).  Under a display shift, or with DISP or SHIFT unknown, the source does not say. -/
def shownAt (r : Receiver) (col row : Nat) : Shown :=
  match r.disp with
  | some false => .nothing
  | none => .unknown
  | some true =>
    if isPosition col row && r.shift = some 0 then .glyphOf (r.mem.ddAt (BitVec.ofNat 7 (row * 0x40 + col)))
    else .unknown

/-- What is shown of the cursor. -/
inductive CursorShown where
  /-- DISP = 0, or CUR = 0 -/
  | nothing
  /-- at a column and a row -/
  | position (col row : Nat)
  /-- DISP or CUR is not known, or the source gives no position -/
  | unknown
  deriving DecidableEq, Repr

/-- Where the cursor is shown (R177): nowhere with DISP = 0, where nothing is shown, and nowhere with CUR = 0; with both 1,
at the position of R31, which the rule gives without reference to SHIFT. -/
def cursorShown (r : Receiver) : CursorShown :=
  match r.disp, r.cur with
  | some false, _ => .nothing
  | _, some false => .nothing
  | some true, some true => (cursorPosition r).elim .unknown fun p => .position p.1 p.2
  | none, _ => .unknown
  | some true, none => .unknown

/-- The character code a cell stands for: its byte, or P_BLANK (R8, R160). -/
def cellCode : DdCell → Option Byte
  | .byte b => some b
  | .blank => some Config.blankCode
  | .unknown => none

/-- The CGRAM slot a character code shows: codes 0x00-0x07 are the user-defined glyphs (R179). -/
def glyphSlot (code : Byte) : Option Nat := if code.toNat < 8 then some code.toNat else none

/-- The bytes of CGRAM slot s, at addresses 8*s .. 8*s+7 (R32), each with all eight bits (R178). -/
def slotBytes (m : Memory) (slot : Nat) : List (Option Byte) :=
  (List.range 8).map fun j => m.cgAt (BitVec.ofNat 6 (8 * slot + j))

end Sys2Proof.Machine
end

