-- ==== Sys2Proof/Tests/Slice0.lean ====
section
/-! SUPPORT. The model's own tests: ill-formed terms refused, one word of every row decoded, small steps with results from
spec/95_test_vectors.md, and for every obligation with hypotheses a state and operands that meet them. -/

namespace Sys2Proof.Tests

open Sys2Proof Sys2Proof.Machine Sys2Proof.Safety

/-! ### WellFormed -/

theorem test_illFormed_reservedReq : (Instr.reservedReq 0).wellFormed = false := by decide
theorem test_illFormed_functionSetOther : (Instr.functionSetOther 0b01000).wellFormed = false := by decide
theorem test_illFormed_shiftOther :
    (Instr.shiftOther 0b0000).wellFormed = false ∧ (Instr.shiftOther 0b0100).wellFormed = false
      ∧ (Instr.shiftOther 0b1000).wellFormed = false ∧ (Instr.shiftOther 0b1100).wellFormed = false := by decide
theorem test_illFormed_entryModeOther : (Instr.entryModeOther 0b10).wellFormed = false := by decide
theorem test_wellFormed_neighbours :
    (Instr.reservedReq 1).wellFormed = true ∧ (Instr.functionSetOther 0b01001).wellFormed = true
      ∧ (Instr.shiftOther 0b0001).wellFormed = true ∧ (Instr.entryModeOther 0b11).wellFormed = true := by decide

/-! ### Decode: words written bit by bit from the tables of R67, R69 and R70 -/

theorem test_decode_init : decode (.req10 0b10_0000_0000) = .ok .init := rfl
theorem test_decode_reservedReq : decode (.req10 0b11_0000_0000) = .ok (.reservedReq 0b1_0000_0000) := rfl
theorem test_decode_cmd : decode (.req10 0b00_0010_1000) = .ok (.cmd 0x28) := rfl
theorem test_decode_data : decode (.req10 0b01_1111_1111) = .ok (.data 0xFF) := rfl
theorem test_decode_functionSet : decode (.bus9 0b0_0010_1000) = .ok .functionSet := rfl
theorem test_decode_functionSetOther : decode (.bus9 0b0_0011_1000) = .ok (.functionSetOther 0b11000) := rfl
theorem test_decode_cursorShiftLeft : decode (.bus9 0b0_0001_0000) = .ok .cursorShiftLeft := rfl
theorem test_decode_cursorShiftRight : decode (.bus9 0b0_0001_0100) = .ok .cursorShiftRight := rfl
theorem test_decode_displayShiftLeft : decode (.bus9 0b0_0001_1000) = .ok .displayShiftLeft := rfl
theorem test_decode_displayShiftRight : decode (.bus9 0b0_0001_1100) = .ok .displayShiftRight := rfl
theorem test_decode_shiftOther : decode (.bus9 0b0_0001_1101) = .ok (.shiftOther 0b1101) := rfl
theorem test_decode_displayControl : decode (.bus9 0b0_0000_1101) = .ok (.displayControl true false true) := rfl
theorem test_decode_entryModeSet : decode (.bus9 0b0_0000_0110) = .ok .entryModeSet := rfl
theorem test_decode_entryModeOther : decode (.bus9 0b0_0000_0111) = .ok (.entryModeOther 0b11) := rfl
theorem test_decode_instr02Or03 : decode (.bus9 0b0_0000_0011) = .ok (.instr02Or03 true) := rfl
theorem test_decode_clearDisplay : decode (.bus9 0b0_0000_0001) = .ok .clearDisplay := rfl
theorem test_decode_instr00 : decode (.bus9 0b0_0000_0000) = .ok .instr00 := rfl
theorem test_decode_setCgramAddr : decode (.bus9 0b0_0111_1111) = .ok (.setCgramAddr 0x3F) := rfl
theorem test_decode_setDdramAddr : decode (.bus9 0b0_1000_0000) = .ok (.setDdramAddr 0x00) := rfl
theorem test_decode_writeData : decode (.bus9 0b1_0000_0001) = .ok (.writeData 0x01) := rfl
theorem test_decode_bootFuncset8bit : decode (.nib5 0b0_0011) = .ok .bootFuncset8bit := rfl
theorem test_decode_switch4bit : decode (.nib5 0b0_0010) = .ok .switch4bit := rfl
theorem test_decode_nibble_rejected : decode (.nib5 0b1_0011) = .error .noSuchNibble := rfl

/-- The numbers the table's rows stand for, in whole bytes. -/
theorem test_decodeTableWord :
    decodeTableWord 16 0x200 = some .init ∧ decodeTableWord 10 0x001 = some (.cmd 0x01)
      ∧ decodeTableWord 16 0x001 = some .clearDisplay ∧ decodeTableWord 9 0x101 = some (.writeData 0x01)
      ∧ decodeTableWord 8 0x03 = some .bootFuncset8bit ∧ decodeTableWord 8 0x04 = none
      ∧ decodeTableWord 16 0x400 = none := by decide

/-! ### The states of the tests -/

/-- S_READY's receiver (spec/95_test_vectors.md), ready for a transfer. -/
def readyRx : Receiver where
  ifmode := some .m4h
  nibhi := some 0x0
  target := some .dd
  ac := some 0x00
  mem := { ddFill := .blank, dd := [], cg := [] }
  disp := some true
  cur := some false
  blink := some false
  entry := some .incNoShift
  func := some .f28
  shift := some 0
  xend := 0

/-- S_READY (spec/95_test_vectors.md), at the time of R131. -/
def ready : State :=
  { State.reset with fsm := .ready, reqByte := 0x0C, lineD := 0xC, oe := true, rx := readyRx, now := 56075240 }

/-- S_READY with another receiver. -/
def withRx (r : Receiver) : State := { ready with rx := r }

/-- S_READY's receiver with TARGET and AC given. -/
def addressed (t : Target) (a : BitVec 7) : Receiver := { readyRx with target := some t, ac := some a }

/-- A receiver S_READY's block would find busy. -/
def busyRx : Receiver := { readyRx with xend := 56075241 }

/-- A request at the port. -/
def asking (w : ReqWord) (s : State) : State := { s with reqValid := true, reqWord := w }

/-- FAULT, entered from S_READY. -/
def faulted : State := { ready with fsm := .fault, fcode := .reinit }

/-- One component of the receiver after an instruction. -/
def after {α : Type} (f : Receiver → α) (i : Instr) (r : Receiver) : Option α :=
  (nextState? (exec i (withRx r))).map fun t => f t.rx

/-- The components R176 makes unknown. -/
def eightUnknown (r : Receiver) : Bool :=
  r.target.isNone && r.ac.isNone && r.disp.isNone && r.cur.isNone && r.blink.isNone && r.entry.isNone && r.shift.isNone
    && r.func.isNone

/-! ### Requests: V1, V2 and V5 -/

theorem test_init_uninit : (nextState? (exec .init State.reset)).map (fun t => (t.fsm, t.sched, t.trace)) =
    some (.boot8, .init, [(0, .state .boot8)]) := by decide
theorem test_init_ready : (nextState? (exec .init ready)).map (fun t => (t.fsm, t.fcode, t.lineD, t.rx)) =
    some (.fault, .reinit, 0xC, readyRx) := by decide
theorem test_reservedReq : (nextState? (exec (.reservedReq 0x1FF) ready)).map (fun t => (t.fsm, t.fcodeOut)) =
    some (.fault, 3) := by decide
theorem test_cmd_uninit : (nextState? (exec (.cmd 0x01) State.reset)).map (fun t => (t.fsm, t.fcodeOut, t.oe, t.trace)) =
    some (.fault, 1, false, [(0, .state .fault)]) := by decide
theorem test_cmd_long : (nextState? (exec (.cmd 0x01) ready)).map (fun t => (t.sched, t.reqRs, t.settle)) =
    some (.tx, false, .long) := by decide
theorem test_data_class : (nextState? (exec (.data 0x01) ready)).map (fun t => (t.sched, t.reqRs, t.settle)) =
    some (.tx, true, .data) := by decide
theorem test_data_uninit : (nextState? (exec (.data 0x58) State.reset)).map (fun t => (t.fsm, t.fcodeOut, t.oe)) =
    some (.fault, 1, false) := by decide

/-! ### Receiver effects: V7 -/

theorem test_functionSet : after id .functionSet { readyRx with xend := 0 } =
    some { readyRx with xend := 56075240 + Config.rExec false 0x28 } := rfl
theorem test_functionSetOther : after (fun r => (r.ifmode, eightUnknown r)) (.functionSetOther 0b10011) readyRx =
    some (some .m8, true) := by decide
theorem test_functionSetOther_4bit : after (·.ifmode) (.functionSetOther 0b00011) readyRx = some (some .m4h) := by decide
theorem test_displayControl_off : after (fun r => (r.disp, r.cur, r.blink)) (.displayControl false false false) readyRx =
    some (some false, some false, some false) := by decide
theorem test_displayControl_cursor : after (fun r => (r.disp, r.cur, r.blink)) (.displayControl true true false) readyRx =
    some (some true, some true, some false) := by decide
theorem test_clearDisplay :
    after (fun r => (r.mem.ddAt 3, r.ac, r.target, r.shift)) .clearDisplay
      { addressed .cg 0x05 with mem := readyRx.mem.writeDd 3 0x41, shift := some 2 } =
    some (.blank, some 0, some .dd, some 0) := by decide
theorem test_entryModeSet : after (·.entry) .entryModeSet { readyRx with entry := none } = some (some .incNoShift) := by decide
theorem test_entryModeOther : after eightUnknown (.entryModeOther 0b00) readyRx = some true := by decide
theorem test_cursorShiftLeft : after (·.ac) .cursorShiftLeft (addressed .dd 0x45) = some (some 0x44) := by decide
theorem test_cursorShiftLeft_edge : after (·.ac) .cursorShiftLeft (addressed .dd 0x40) = some none := by decide
theorem test_cursorShiftRight : after (·.ac) .cursorShiftRight (addressed .dd 0x0E) = some (some 0x0F) := by decide
theorem test_cursorShiftRight_edge : after (·.ac) .cursorShiftRight (addressed .dd 0x0F) = some none
    ∧ after (·.ac) .cursorShiftRight (addressed .cg 0x05) = some none := by decide
theorem test_displayShiftLeft : after (·.shift) .displayShiftLeft readyRx = some (some 1) := by decide
theorem test_displayShiftRight : after (·.shift) .displayShiftRight readyRx = some (some (-1)) := by decide
theorem test_shiftOther : after eightUnknown (.shiftOther 0b0001) readyRx = some true := by decide
theorem test_setCgramAddr : after (fun r => (r.target, r.ac)) (.setCgramAddr 0x3F) readyRx = some (some .cg, some 0x3F) := by
  decide
theorem test_setDdramAddr : after (fun r => (r.target, r.ac)) (.setDdramAddr 0x7F) readyRx = some (some .dd, some 0x7F) := by
  decide
theorem test_writeData_cells :
    after (fun r => (r.mem.ddAt 0x4F, r.ac)) (.writeData 0x41) (addressed .dd 0x4F) = some (.byte 0x41, some 0x50)
      ∧ after (fun r => (r.mem.cgAt 0x3F, r.ac)) (.writeData 0x1F) (addressed .cg 0x3F) = some (some 0x1F, none)
      ∧ after (fun r => (r.mem.ddAt 0x02, r.ac)) (.writeData 0x41) { addressed .dd 0x02 with entry := none } =
        some (.byte 0x41, none) := by decide
theorem test_writeData_refused :
    exec (.writeData 0x42) (withRx (addressed .dd 0x10)) = .refused .outsidePositions
      ∧ exec (.writeData 0x41) (withRx { readyRx with ac := none }) = .refused .unknownAddress
      ∧ exec (.writeData 0x41) (withRx busyRx) = .refused .receiverBusy := ⟨rfl, rfl, rfl⟩
theorem test_instr00 : after (fun r => (eightUnknown r, r.mem)) .instr00 readyRx = some (true, readyRx.mem) := by decide
theorem test_instr02Or03 : after eightUnknown (.instr02Or03 false) readyRx = some true := by decide

/-! ### Single nibbles: V3 and V4 -/

/-- Before the group of INIT step k, with the receiver's framing given. -/
def beforeGroup (k : Nat) (f : Framing) : State :=
  { State.reset with
    fsm := .boot8, sched := .init, step := k, oe := true, now := 50000040
    rx := { Receiver.unknown 0 with ifmode := some f, nibhi := some 0x0 } }

/-- M4L with NIBHI = 0 executes 0x03 at pulse 1 and is then in M4H. -/
theorem test_bootFuncset8bit_latch :
    (nextState? (rxLatch false 0x3 (beforeGroup 4 .m4l))).map (fun t => (t.rx.ifmode, eightUnknown t.rx)) =
      some (some .m4h, true) := by decide
theorem test_bootFuncset8bit :
    (nextState? (exec .bootFuncset8bit (beforeGroup 4 .m4h))).map (fun t => (t.step, t.latched, t.rx.ifmode)) =
      some (11, [(false, 0x3)], some .m4l) := by decide +kernel
theorem test_switch4bit :
    (nextState? (exec .switch4bit (beforeGroup 25 .m4h))).map (fun t => (t.fsm, t.step, t.latched)) =
      some (.boot4, 33, [(false, 0x2)]) := by decide +kernel

/-! ### Steps -/

/-- The client's INIT is presented and accepted in one step from reset (R24, R198). -/
theorem test_step_from_reset :
    (nextState? (step { State.reset with client := [0x200, 0x148] })).map (fun t => (t.fsm, t.sched, t.client, t.reqValid)) =
      some (.boot8, .init, [0x148], false) := by decide
/-- In FAULT the client presents nothing, and a call that emits nothing is complete all the same (R135, R149, R198). -/
theorem test_client_waits :
    clientTurn { faulted with client := [0x141], emitting := true } = { faulted with client := [0x141], emitting := true }
      ∧ clientDone (withCalls [.gotoXY 0 2] faulted) = true
      ∧ clientDone { faulted with emitting := true } = false := by decide
/-- rst raised in the turn after an emit's schedule has ended leaves the call complete (R135). -/
theorem test_client_stays_done :
    clientDone { ready with emitting := true, host := [.setRst true] } = true
      ∧ (nextState? (step { ready with emitting := true, host := [.setRst true] })).map (fun t => (t.rst, clientDone t)) =
        some (true, true) := by decide
/-- A placed word is the next step's instruction. -/
theorem test_withFetchWord :
    (nextState? (step (State.reset.withFetchWord 9 0x001))).map (fun t => (t.rx.target, t.rx.ac, t.rx.mem.ddAt 0x7F)) =
      some (some .dd, some 0, .blank) := by decide
/-- rst inside a wait drops the schedule and releases the lines (R200, V8). -/
theorem test_reset_inside :
    (nextState? (step { ready with sched := .tx, step := 1, waitFrom := some 0, waitRem := 40, host := [.setRst true] })).map
        (fun t => (t.fsm, t.sched, t.oe, t.rx.ifmode)) = some (.uninit, .none, false, none) := by decide

/-! ### The Session API, assembly and what is shown: E2, E3, E5, V6 and R84 -/

theorem test_gotoXY : (ApiCall.gotoXY 17 1).requests = [0x0C1] ∧ (ApiCall.gotoXY 15 0).requests = [0x08F]
    ∧ (ApiCall.gotoXY 3 2).requests = [] := by decide
theorem test_displayString : (ApiCall.displayString ((List.range 18).map fun j => BitVec.ofNat 8 (0x41 + j))).requests =
    [0x001, 0x141, 0x142, 0x143, 0x144, 0x145, 0x146, 0x147, 0x148, 0x149, 0x14A, 0x14B, 0x14C, 0x14D, 0x14E, 0x14F,
      0x150, 0x0C0, 0x151, 0x152] := by decide
theorem test_displayInteger : (ApiCall.displayInteger (-42)).requests = [0x001, 0x12D, 0x134, 0x132] := by decide
theorem test_decimal : decimal (-32768) = [0x2D, 0x33, 0x32, 0x37, 0x36, 0x38] ∧ decimal 0 = [0x30] := by decide
theorem test_loadUserCharacter : (ApiCall.loadUserCharacter 3 #v[0, 0xA, 0x1F, 0x1F, 0xE, 4, 0, 0]).requests =
    [0x058, 0x100, 0x10A, 0x11F, 0x11F, 0x10E, 0x104, 0x100, 0x100] := by decide
theorem test_setCursorVisibility : (ApiCall.setCursorVisibility true false).requests = [0x00E] := by decide
theorem test_assemble : assemble ["CMD DISPCTL 1,0  ; cursor on".toList, "".toList] = .ok [0x00E] := by exact Eq.refl _
theorem test_assemble_range : assemble ["CMD SETCG 0x40".toList] = .error .outOfRange := by exact Eq.refl _
theorem test_disassemble : disassemble (.cmd 0xC5) = "CMD SETDD 0x45" ∧ disassemble .switch4bit = "N:0x2" := by decide +kernel
theorem test_shown :
    shownAt { readyRx with mem := readyRx.mem.writeDd 0x45 0x41 } 5 1 = .glyphOf (.byte 0x41)
      ∧ cursorPosition (addressed .dd 0x46) = some (6, 1) := by decide
/-- With DISP = 0 nothing is shown, the cursor included (R177). -/
theorem test_cursorShown :
    cursorShown { addressed .dd 0x46 with cur := some true } = .position 6 1
      ∧ cursorShown { addressed .dd 0x46 with cur := some true, disp := some false } = .nothing
      ∧ cursorShown (addressed .dd 0x46) = .nothing
      ∧ cursorShown { addressed .dd 0x46 with cur := some true, disp := none } = .unknown := by decide

/-! ### Witnesses: for every obligation with hypotheses, a state and operands that meet them together -/

theorem test_witness_DecodeEncode : (Instr.functionSetOther 0b11111).wellFormed = true
    ∧ (Instr.shiftOther 0b1111).wellFormed = true ∧ (Instr.setDdramAddr 0x7F).wellFormed = true := by decide
theorem test_witness_EncodeDecode : decode (.bus9 0x1FF) = .ok (.writeData 0xFF) := rfl
theorem test_witness_Outputs : (ready.oe = true ∧ PinMap.injective ready.cfg.pinMap = true) ∧ State.reset.oe = false := by
  decide
theorem test_witness_RequestAcceptance_taken :
    (asking 0x200 State.reset).host = [] ∧ configLegal (asking 0x200 State.reset).cfg = true
      ∧ (asking 0x200 State.reset).reqValid = true ∧ (asking 0x200 State.reset).reqReady = true := by decide
theorem test_witness_RequestAcceptance_waits : ∃ t,
    (asking 0x041 faulted).host = [] ∧ (asking 0x041 faulted).reqValid = true
      ∧ (asking 0x041 faulted).reqReady = false ∧ step (asking 0x041 faulted) = .next t := ⟨_, rfl, rfl, rfl, rfl⟩
theorem test_witness_RequestAcceptance_client : ∃ t,
    ({ State.reset with client := [0x200] } : State).host = [] ∧ step { State.reset with client := [0x200] } = .next t
      ∧ t.client ≠ ({ State.reset with client := [0x200] } : State).client := ⟨_, rfl, rfl, by decide⟩
theorem test_witness_InitStarts : State.reset.fsm = .uninit := by decide
theorem test_witness_FaultingRequests : ready.fsm ≠ .uninit ∧ State.reset.fsm ≠ .ready ∧ faulted.fsm ≠ .ready := by decide
theorem test_witness_ByteTransfersStart : ready.fsm = .ready := by decide
theorem test_witness_FaultOnlyAtAcceptance_entered : ∃ t,
    (asking 0x201 State.reset).fsm ≠ .fault ∧ step (asking 0x201 State.reset) = .next t ∧ t.fsm = .fault :=
  ⟨_, by decide, rfl, rfl⟩
/-- Each cause of R181, and the boundary words 0x201 and 0x3FF of the reserved ones. -/
theorem test_witness_FaultOnlyAtAcceptance_causes :
    (∀ w ∈ ([0x201, 0x3FF, 0x000, 0x1FF] : List ReqWord),
      envTurn (asking w State.reset) = .next (asking w State.reset) ∧ (asking w State.reset).accepts = true
        ∧ faultCause w State.reset.fsm ≠ .none)
      ∧ envTurn (asking 0x200 ready) = .next (asking 0x200 ready) ∧ (asking 0x200 ready).accepts = true
      ∧ faultCause 0x200 ready.fsm = .reinit ∧ configLegal ready.cfg = true := by
  refine ⟨?_, rfl, by decide, by decide, by decide⟩
  intro w hw
  exact ⟨rfl, rfl, by revert w; decide⟩
theorem test_witness_FaultIsSticky_held : ∃ u t,
    faulted.fsm = .fault ∧ faulted.sched = .none ∧ envTurn faulted = .next u ∧ step faulted = .next t ∧ u.rst = false :=
  ⟨_, _, rfl, rfl, rfl, rfl, rfl⟩
theorem test_witness_FaultIsSticky_reset : ∃ u t,
    ({ faulted with host := [.setRst true] } : State).fsm = .fault
      ∧ ({ faulted with host := [.setRst true] } : State).sched = .none
      ∧ envTurn { faulted with host := [.setRst true] } = .next u
      ∧ step { faulted with host := [.setRst true] } = .next t ∧ u.rst = true :=
  ⟨_, _, rfl, rfl, rfl, rfl, rfl⟩
theorem test_witness_ResetHolds : ∃ u,
    envTurn { ready with host := [.setRst true] } = .next u ∧ configLegal u.cfg = true ∧ u.rst = true :=
  ⟨_, rfl, by decide, rfl⟩
theorem test_witness_ResetHolds_group : ∃ u v,
    runPhase (.whole .eHi) { beforeGroup 4 .m4h with host := [.setRst true] } = .next u ∧ envTurn u = .next v
      ∧ v.rst = true := ⟨_, _, rfl, rfl, congrArg State.rst (Laws.clientTurn_frame _)⟩
theorem test_witness_StepRunsRequest :
    envTurn (asking 0x141 ready) = .next (asking 0x141 ready) ∧ configLegal (asking 0x141 ready).cfg = true
      ∧ (asking 0x141 ready).accepts = true ∧ decode (.req10 (asking 0x141 ready).reqWord) = .ok (.data 0x41) :=
  ⟨rfl, by decide, by decide, rfl⟩
theorem test_witness_StepRunsSchedule_nibble : ∀ k ∈ [4, 11, 18, 25],
    envTurn (beforeGroup k .m8) = .next (beforeGroup k .m8) ∧ configLegal (beforeGroup k .m8).cfg = true
      ∧ (beforeGroup k .m8).rst = false ∧ (nibbleAt (beforeGroup k .m8)).isSome = true
      ∧ (fetchNibble (beforeGroup k .m8)).isSome = true := by
  intro k hk
  exact ⟨rfl, by revert k; decide, rfl, by revert k; decide, by revert k; decide⟩
/-- The transfer of DATA 'A' at its second falling edge: TX step 12. -/
def secondEdge : State :=
  { ready with
    sched := .tx, step := 12, reqRs := true, reqByte := 0x41, settle := .data, lineRs := true, lineE := true, lineD := 0x1
    latched := [(true, 0x4)], rx := { readyRx with ifmode := some .m4l, nibhi := some 0x4 } }
/-- The last step of the INIT schedule, with what its transfers have done. -/
def lastOfInit : State :=
  { ready with
    fsm := .boot4, sched := .init, step := 113
    latched := [(false, 0x3), (false, 0x3), (false, 0x3), (false, 0x2), (false, 0x2), (false, 0x8), (false, 0x0),
      (false, 0x8), (false, 0x0), (false, 0x1), (false, 0x0), (false, 0x6), (false, 0x0), (false, 0xC)] }
/-- The end of the settle wait of a TX schedule. -/
def lastOfTx : State :=
  { secondEdge with
    step := 14, lineE := false, waitFrom := some 56075240, waitRem := 37000, latched := [(true, 0x4), (true, 0x1)]
    rx := readyRx }
theorem test_witness_StepRunsSchedule_phase :
    envTurn secondEdge = .next secondEdge ∧ configLegal secondEdge.cfg = true ∧ secondEdge.rst = false
      ∧ secondEdge.sched.steps[secondEdge.step]? = some .eLo ∧ nibbleAt secondEdge = none :=
  ⟨rfl, by decide, rfl, rfl, rfl⟩
theorem test_witness_StepRunsFormedByte_m4l :
    envTurn secondEdge = .next secondEdge ∧ configLegal secondEdge.cfg = true ∧ secondEdge.rst = false
      ∧ secondEdge.sched.steps[secondEdge.step]? = some .eLo ∧ secondEdge.oe = true ∧ secondEdge.rx.ifmode = some .m4l
      ∧ secondEdge.rx.nibhi = some 0x4
      ∧ decode (.bus9 (busWord secondEdge.lineRs (byteOf 0x4 secondEdge.lineD))) = .ok (.writeData 0x41) :=
  ⟨rfl, by decide, rfl, rfl, rfl, rfl, rfl, rfl⟩
theorem test_witness_StepRunsFormedByte_m8 : ∃ i,
    envTurn { secondEdge with rx := { readyRx with ifmode := some .m8 } } =
        .next { secondEdge with rx := { readyRx with ifmode := some .m8 } }
      ∧ configLegal secondEdge.cfg = true ∧ secondEdge.rst = false
      ∧ secondEdge.sched.steps[secondEdge.step]? = some .eLo ∧ secondEdge.oe = true
      ∧ decode (.bus9 (busWord secondEdge.lineRs (byteOf secondEdge.lineD (Config.freeNibble secondEdge.draws)))) = .ok i :=
  ⟨_, rfl, by decide, rfl, rfl, rfl, rfl⟩
theorem test_witness_StepRunsFormedByte_m4h : ∃ u,
    envTurn { secondEdge with rx := readyRx } = .next u ∧ configLegal u.cfg = true ∧ u.rst = false
      ∧ u.sched.steps[u.step]? = some .eLo ∧ u.oe = true ∧ u.rx.ifmode = some .m4h :=
  ⟨_, rfl, by decide, rfl, rfl, rfl, rfl⟩
theorem test_witness_LineMicroOperations :
    (Sched.steps .tx)[0]? = some (.setRs .reqRs) ∧ (Sched.steps .init)[4]? = some (.setD (.const 0x3))
      ∧ (Sched.steps .tx)[4]? = some .eHi ∧ .setRs (.level false) ∈ Sched.steps .init := by decide
theorem test_witness_RegisterMicroOperations :
    .setFsm .ready ∈ Sched.steps .init ∧ (∀ f, Micro.eHi ≠ .setFsm f) ∧ ∃ t, microEffect .eHi ready = .next t :=
  ⟨by decide, by simp, _, rfl⟩
theorem test_witness_FallingEdgeLatches :
    (∃ t, microEffect .eLo { secondEdge with rx := readyRx } = .next t)
      ∧ (∃ t, microEffect .eLo State.reset = .next t ∧ State.reset.oe = false)
      ∧ ∃ t, Micro.cfg ≠ .eLo ∧ microEffect .cfg State.reset = .next t :=
  ⟨⟨_, rfl⟩, ⟨_, rfl, rfl⟩, _, by decide, rfl⟩
theorem test_witness_WaitLasts : ∃ e : State,
    e = { waitBegin 450 ready with
      rst := e.rst, reqValid := e.reqValid, reqWord := e.reqWord, client := e.client, emitting := e.emitting
      host := e.host }
      ∧ e.reqValid = true := ⟨{ waitBegin 450 ready with reqValid := true, reqWord := 0x41 }, rfl, rfl⟩
/-- One configuration one nanosecond below each floor, and one for each other cause of R9. -/
theorem test_witness_IllegalConfigRefused : ∀ c ∈ ([{ Config.initial with tPowerup := 14999999 },
      { Config.initial with tBoot1 := 4099999 }, { Config.initial with tBoot2 := 99999 },
      { Config.initial with tBoot3 := 99999 }, { Config.initial with tSwitch := 36999 }, { Config.initial with tAs := 39 },
      { Config.initial with tPw := 449 }, { Config.initial with tH := 49 }, { Config.initial with tExec := 36999 },
      { Config.initial with tData := 36999 }, { Config.initial with tClear := 1519999 },
      { Config.initial with pinMap := { Config.initial.pinMap with e := 5 } },
      { Config.initial with longSet := [0x02, 0x03] }] : List Config),
    configLegal c = false ∧ configLegal Config.initial = true ∧ step { ready with cfg := c } = .refused .illegalConfig := by
  intro c hc
  refine ⟨by revert c; decide, by decide, ?_⟩
  have h : configLegal c = false := by revert c; decide
  have e : step { ready with cfg := c } =
      if configLegal c then blockTurn { ready with cfg := c } else .refused .illegalConfig := rfl
  rw [e, h]
  rfl

/-- A ready receiver, and one at the very instant it becomes ready. -/
theorem test_witness_ready_receiver : ready.rx.xend ≤ ready.now
    ∧ (withRx { readyRx with xend := 56075240 }).rx.xend ≤ (withRx { readyRx with xend := 56075240 }).now := by decide
theorem test_witness_FunctionSet : (readyRx.ifmode = some .m4h ∧ readyRx.func = some .f28)
    ∧ (withRx { readyRx with ifmode := some .m4l, nibhi := some 0x2 }).rx.ifmode = some .m4l
    ∧ (withRx { readyRx with ifmode := some .m4l, nibhi := some 0x2 }).rx.nibhi = some 0x2 := by decide
/-- CursorShifts: the ends of both rows, in each clause that moves AC. -/
theorem test_witness_CursorShifts_moved :
    (∀ a ∈ ([0x01, 0x0F, 0x41, 0x4F] : List (BitVec 7)),
      (withRx (addressed .dd a)).rx.xend ≤ (withRx (addressed .dd a)).now ∧ (addressed .dd a).target = some .dd
        ∧ (addressed .dd a).ac = some a ∧ Vis a ∧ 0 < a.toNat % 0x40)
      ∧ ∀ a ∈ ([0x00, 0x0E, 0x40, 0x4E] : List (BitVec 7)),
        (withRx (addressed .dd a)).rx.xend ≤ (withRx (addressed .dd a)).now ∧ (addressed .dd a).target = some .dd
          ∧ (addressed .dd a).ac = some a ∧ Vis a ∧ a.toNat % 0x40 < 15 := by
  constructor <;>
    (intro a ha; exact ⟨Nat.zero_le _, rfl, rfl, by unfold Vis; revert a; decide, by revert a; decide⟩)
/-- CursorShifts: the row ends, the neighbours of the visible addresses and the unknowns, in each clause that does not. -/
theorem test_witness_CursorShifts_unknown :
    (∀ a ∈ ([0x00, 0x40, 0x10, 0x3F, 0x50, 0x7F] : List (BitVec 7)),
      ¬∃ c, (addressed .dd a).target = some .dd ∧ (addressed .dd a).ac = some c ∧ Vis c ∧ 0 < c.toNat % 0x40)
      ∧ (∀ a ∈ ([0x0F, 0x4F, 0x10, 0x3F, 0x50, 0x7F] : List (BitVec 7)),
        ¬∃ c, (addressed .dd a).target = some .dd ∧ (addressed .dd a).ac = some c ∧ Vis c ∧ c.toNat % 0x40 < 15)
      ∧ (¬∃ c, (addressed .cg 5).target = some .dd ∧ (addressed .cg 5).ac = some c ∧ Vis c ∧ 0 < c.toNat % 0x40)
      ∧ ¬∃ c, readyRx.target = some .dd ∧ (none : Option (BitVec 7)) = some c ∧ Vis c ∧ c.toNat % 0x40 < 15 := by
  refine ⟨?_, ?_, fun ⟨c, h, _⟩ => by simp [addressed] at h, fun ⟨c, _, h, _⟩ => by cases h⟩ <;>
    (rintro a ha ⟨c, _, h2, h3, h4⟩; injection h2 with h2; subst h2; revert h3 h4; unfold Vis; revert a; decide)

/-- A state whose receiver is r, just ready. -/
def readyAgain (r : Receiver) : State := { ready with rx := r, now := r.xend }
/-- Two instructions, the second when the receiver is ready again. -/
theorem twice {i j : Instr} (hi : ∃ t, exec i ready = .next t) (hj : ∀ r, ∃ v, exec j (readyAgain r) = .next v) :
    ∃ t u v, exec i ready = .next t ∧ u.rx = t.rx ∧ exec j u = .next v :=
  have ⟨t, ht⟩ := hi
  have ⟨v, hv⟩ := hj t.rx
  ⟨t, readyAgain t.rx, v, ht, rfl, hv⟩
theorem test_witness_DisplayShifts : ∃ t u v,
    exec .displayShiftLeft ready = .next t ∧ u.rx = t.rx ∧ exec .displayShiftRight u = .next v :=
  twice ⟨_, rfl⟩ fun _ => ⟨_, (Laws.exec_displayShiftRight _).trans (Laws.rxTransfer_ready (Nat.le_refl _))⟩
theorem test_witness_ClearDisplay : ∃ t u v,
    exec .clearDisplay ready = .next t ∧ u.rx = t.rx ∧ exec .clearDisplay u = .next v :=
  twice ⟨_, rfl⟩ fun _ => ⟨_, (Laws.exec_clearDisplay _).trans (Laws.rxTransfer_ready (Nat.le_refl _))⟩
theorem test_witness_SetAddresses_cg : ∀ a : BitVec 6, ∃ t u v,
    exec (.setCgramAddr a) ready = .next t ∧ u.rx = t.rx ∧ exec (.setCgramAddr a) u = .next v := fun a =>
  twice ⟨_, rfl⟩ fun _ => ⟨_, (Laws.exec_setCgramAddr a _).trans (Laws.rxTransfer_ready (Nat.le_refl _))⟩
theorem test_witness_SetAddresses_dd : ∀ a : BitVec 7, ∃ t u v,
    exec (.setDdramAddr a) ready = .next t ∧ u.rx = t.rx ∧ exec (.setDdramAddr a) u = .next v := fun a =>
  twice ⟨_, rfl⟩ fun _ => ⟨_, (Laws.exec_setDdramAddr a _).trans (Laws.rxTransfer_ready (Nat.le_refl _))⟩
/-- A data write the receiver executes. -/
theorem writes {b : Byte} {r r' : Receiver} (h : writeDataEffect b r = .next r') :
    ∃ v, exec (.writeData b) (readyAgain r) = .next v := by
  have e := (Laws.exec_writeData b (readyAgain r)).trans (Laws.rxTransfer_ready (Nat.le_refl _))
  rw [show (readyAgain r).rx = r from rfl, h] at e
  exact ⟨_, e⟩
theorem test_witness_SetAddresses_write : ∃ t v,
    exec (.setCgramAddr 0x3F) ready = .next t ∧ exec (.writeData 0x1F) (readyAgain t.rx) = .next v := by
  have ⟨v, hv⟩ := writes (b := 0x1F) (r := { addressed .cg 0x3F with xend := 56075240 + Config.rExec false 0x7F }) rfl
  exact ⟨{ ready with rx := { addressed .cg 0x3F with xend := 56075240 + Config.rExec false 0x7F } }, v, rfl, hv⟩
theorem test_witness_SetAddresses_outside : ∃ t,
    exec (.setDdramAddr 0x10) ready = .next t ∧ ¬Vis 0x10 ∧ ¬Vis 0x3F ∧ ¬Vis 0x50 ∧ ¬Vis 0x7F
      ∧ (readyAgain t.rx).rx.xend ≤ (readyAgain t.rx).now := by
  refine ⟨_, rfl, ?_, ?_, ?_, ?_, Nat.le_refl _⟩ <;> (unfold Vis; decide)
/-- Both targets, each at the last address at which a write advances AC, and CGRAM's last address. -/
theorem test_witness_EntryModeSet :
    (∀ p ∈ ([(.dd, 0x4F), (.cg, 0x3E), (.cg, 0x3F)] : List (Target × BitVec 7)),
      (readyAgain (addressed p.1 p.2)).rx.entry = some .incNoShift
        ∧ (readyAgain (addressed p.1 p.2)).rx.target = some p.1 ∧ (readyAgain (addressed p.1 p.2)).rx.ac = some p.2
        ∧ ∃ v, exec (.writeData 0x41) (readyAgain (addressed p.1 p.2)) = .next v)
      ∧ ready.rx.xend ≤ ready.now := by
  refine ⟨fun p hp => ?_, by decide⟩
  have h : ∃ r, writeDataEffect 0x41 (addressed p.1 p.2) = .next r := by
    obtain rfl | rfl | rfl : p = (.dd, 0x4F) ∨ p = (.cg, 0x3E) ∨ p = (.cg, 0x3F) := by simpa using hp
    all_goals exact ⟨_, rfl⟩
  have ⟨_, hr⟩ := h
  exact ⟨rfl, rfl, rfl, writes hr⟩
theorem test_witness_WriteDataDdram : ∀ a ∈ ([0x00, 0x0F, 0x40, 0x4F] : List (BitVec 7)),
    (withRx (addressed .dd a)).rx.xend ≤ (withRx (addressed .dd a)).now ∧ (addressed .dd a).target = some .dd
      ∧ (addressed .dd a).ac = some a ∧ Vis a := by
  intro a ha
  exact ⟨Nat.zero_le _, rfl, rfl, by unfold Vis; revert a; decide⟩
theorem test_witness_WriteDataCgram : ∀ a ∈ ([0x00, 0x3E, 0x3F, 0x40, 0x7F] : List (BitVec 7)),
    (withRx (addressed .cg a)).rx.xend ≤ (withRx (addressed .cg a)).now ∧ (addressed .cg a).target = some .cg
      ∧ (addressed .cg a).ac = some a := fun _ _ => ⟨Nat.zero_le _, rfl, rfl⟩
theorem test_witness_WriteDataRefuses : (withRx { readyRx with target := none }).rx.target = none
    ∧ (withRx { readyRx with ac := none }).rx.ac = none
    ∧ ∀ a ∈ ([0x10, 0x3F, 0x50, 0x7F] : List (BitVec 7)),
      (withRx (addressed .dd a)).rx.xend ≤ (withRx (addressed .dd a)).now ∧ (addressed .dd a).target = some .dd
        ∧ (addressed .dd a).ac = some a ∧ ¬Vis a := by
  refine ⟨rfl, rfl, fun a ha => ⟨Nat.zero_le _, rfl, rfl, ?_⟩⟩
  unfold Vis
  revert a
  decide
/-- The last instant at which the receiver is busy, and a transfer it executes. -/
theorem test_witness_TransferExecution : (withRx busyRx).now < (withRx busyRx).rx.xend
    ∧ ∃ t, rxExec false 0x28 ready = .next t := ⟨by decide, _, rfl⟩
theorem test_witness_InstructionBytesKeepMemory : (∃ t, rxExec false 0x40 ready = .next t)
    ∧ (0x40 : Byte) ≠ 0x01 ∧ (0x40 : Byte) &&& 0xE0 ≠ 0x20 ∧ (0x1F : Byte) &&& 0xE0 ≠ 0x20 := ⟨⟨_, rfl⟩, by decide⟩
/-- BootstrapConverges, on a receiver that was in 4-bit framing. -/
theorem test_witness_BootstrapConverges : ∃ t1 t2 t3 t4,
    rxLatch false 3 ready = .next t1 ∧ rxLatch false 3 (readyAgain t1.rx) = .next t2
      ∧ rxLatch false 3 (readyAgain t2.rx) = .next t3 ∧ rxLatch false 2 (readyAgain t3.rx) = .next t4 := by
  have total : ∀ (n : Nibble) (s : State), s.rx.xend ≤ s.now → ∃ t, rxLatch false n s = .next t := by
    have ran : ∀ (b : Byte) (s : State), s.rx.xend ≤ s.now → ∃ t, rxExec false b s = .next t := by
      intro b s h
      have ⟨f, hf⟩ := Laws.rxExec_instruction b
      exact ⟨_, (hf.transfer s).trans (Laws.rxTransfer_ready h)⟩
    have run : ∀ (f : Framing) (n : Nibble) (s : State), s.rx.xend ≤ s.now → ∃ t, latchIn f false n s = .next t := by
      intro f n s h
      cases f with
      | m8 => exact ran _ _ h
      | m4h => exact ⟨_, rfl⟩
      | m4l =>
        simp only [latchIn]
        split <;> exact ran _ _ h
    intro n s h
    unfold rxLatch
    split
    · exact run _ n s h
    · exact run _ n _ h
  have ⟨t1, h1⟩ := total 3 ready (by decide)
  have ⟨t2, h2⟩ := total 3 (readyAgain t1.rx) (Nat.le_refl _)
  have ⟨t3, h3⟩ := total 3 (readyAgain t2.rx) (Nat.le_refl _)
  have ⟨t4, h4⟩ := total 2 (readyAgain t3.rx) (Nat.le_refl _)
  exact ⟨t1, t2, t3, t4, h1, h2, h3, h4⟩
theorem test_witness_BootPulseCompletes : ∀ k ∈ [4, 11, 18],
    (beforeGroup k .m8).host = [] ∧ (beforeGroup k .m8).rst = false ∧ (beforeGroup k .m8).sched = .init
      ∧ ((beforeGroup k .m8).step = 4 ∨ (beforeGroup k .m8).step = 11 ∨ (beforeGroup k .m8).step = 18)
      ∧ (beforeGroup k .m8).oe = true ∧ (beforeGroup k .m8).lineRs = false
      ∧ (beforeGroup k .m8).rx.xend ≤ (beforeGroup k .m8).now ∧ (beforeGroup k .m8).rx.ifmode = some .m8 := by decide
theorem test_witness_SwitchCompletes :
    (beforeGroup 25 .m8).host = [] ∧ (beforeGroup 25 .m8).rst = false ∧ (beforeGroup 25 .m8).sched = .init
      ∧ (beforeGroup 25 .m8).step = 25 ∧ (beforeGroup 25 .m8).oe = true ∧ (beforeGroup 25 .m8).lineRs = false
      ∧ (beforeGroup 25 .m8).rx.xend ≤ (beforeGroup 25 .m8).now ∧ (beforeGroup 25 .m8).rx.ifmode = some .m8 := by decide
theorem test_witness_SettleClasses : (0x03 : Byte) ∈ Config.initial.longSet ∧ (0x04 : Byte) ∉ Config.initial.longSet := by
  decide
theorem test_witness_SchedulesWellFormed :
    (Sched.steps .tx)[4]? = some .eHi ∧ .eHi ∉ (Sched.steps .tx).take 4 ∧ (Sched.steps .init)[6]? = some .eHi
      ∧ .eHi ∉ (Sched.steps .init).take 6 ∧ (Sched.steps .tx)[6]? = some .eLo
      ∧ (Sched.steps .tx)[8]? = some (.setD .loReq) := by decide

theorem test_witness_InitTransfers :
    ((0x0C, 97, 0x0, 0xC, .short) : Byte × Nat × Nibble × Nibble × SettleClass) ∈
      ([(0x28, 33, 0x2, 0x8, .short), (0x01, 65, 0x0, 0x1, .long), (0x06, 81, 0x0, 0x6, .short),
        (0x0C, 97, 0x0, 0xC, .short)] : List (Byte × Nat × Nibble × Nibble × SettleClass)) := by decide

/-! ### Witnesses for the invariants -/

/-- The block's invariant in a state inside a schedule, from its decidable parts. -/
theorem blockInv_inside {s : State} (inRange : s.step < s.sched.steps.length) (fsm : fsmFits s)
    (oe : s.oe = true) (oeFit : oeFits s) (lineE : s.lineE = levelAfter (opsDone s))
    (waiting : s.waitFrom.isSome = true → ∃ t, s.sched.steps[s.step]? = some (.wait t))
    (noWait : s.waitFrom = none → s.waitRem = 0) (noFault : s.fsm ≠ .fault ∧ s.fcode = .none) : BlockInv s :=
  ⟨.inr inRange, fsm, oeFit, fun _ => lineE, waiting, noWait,
    ⟨fun h => absurd h noFault.1, fun h => absurd noFault.2 h⟩, fun h => by rw [oe] at h; cases h⟩
theorem secondEdge_block : BlockInv secondEdge :=
  blockInv_inside (by decide) rfl rfl rfl rfl (fun h => by cases h) (fun _ => rfl) (by decide)
theorem lastOfInit_block : BlockInv lastOfInit :=
  blockInv_inside (by decide) rfl rfl rfl (by decide) (fun h => by cases h) (fun _ => rfl) (by decide)
theorem lastOfTx_block : BlockInv lastOfTx :=
  blockInv_inside (by decide) rfl rfl rfl rfl (fun _ => ⟨.settle, rfl⟩) (by decide) (by decide)
theorem secondEdge_schedule : ScheduleInv secondEdge :=
  .inr ⟨true, 0x41, true, 0x0, [], rfl, rfl, fun _ => ⟨rfl, rfl⟩, rfl⟩
theorem lastOfTx_schedule : ScheduleInv lastOfTx :=
  .inr ⟨true, 0x41, true, 0x0, [], rfl, rfl, fun _ => ⟨rfl, rfl⟩, rfl⟩
theorem lastOfInit_schedule : ScheduleInv lastOfInit :=
  .inr ⟨false, 0x00, false, 0x0, [], by decide, by decide, fun _ => ⟨by decide, by decide⟩, by decide⟩
theorem secondEdge_time : TimeInv secondEdge :=
  ⟨List.Pairwise.nil, by simp [secondEdge, ready, State.reset], Nat.le_refl _, by simp [secondEdge, ready, State.reset],
    by simp [secondEdge, ready, State.reset]⟩

theorem test_witness_BlockInvKept : ∃ t, BlockInv lastOfTx ∧ step lastOfTx = .next t := ⟨_, lastOfTx_block, rfl⟩
theorem test_witness_RunsKeepR34 : Reachable State.reset :=
  .start ⟨rfl, rfl, rfl, rfl, rfl, rfl, rfl, rfl, Nat.le_refl _, rfl, rfl⟩
/-- A state in which rst falls whose port, client and host have requests to present. -/
theorem test_witness_InvariantsAtReset : ∃ s, AtReset s ∧ s.reqValid = true ∧ keepsFraming s.reqWord = true
    ∧ s.client ≠ [] ∧ (∀ w ∈ s.client, keepsFraming w = true)
    ∧ s.host ≠ [] ∧ ∀ m ∈ s.host, moveKeepsFraming m = true :=
  ⟨{ State.reset with reqValid := true, reqWord := 0x200, client := [0x02F, 0x040], host := [.drive 0x141] },
    ⟨rfl, rfl, rfl, rfl, rfl, rfl, rfl, rfl, Nat.le_refl _, rfl, rfl⟩, by decide⟩
theorem test_witness_MemoryFormKept : ∃ t, secondEdge.rx.mem.wf = true ∧ step secondEdge = .next t := ⟨_, rfl, rfl⟩
theorem test_witness_TimeInvKept : ∃ t, BlockInv secondEdge ∧ TimeInv secondEdge ∧ step secondEdge = .next t :=
  ⟨_, secondEdge_block, secondEdge_time, rfl⟩
/-- The pulse of the second nibble, its wait as short as the invariant allows, and the step that ends it. -/
theorem test_witness_EventsApart : ∃ t,
    BlockInv { secondEdge with trace := [(56074790, .lineE true), (56074790, .wait 450 450)] }
      ∧ TimeInv { secondEdge with trace := [(56074790, .lineE true), (56074790, .wait 450 450)] }
      ∧ step { secondEdge with trace := [(56074790, .lineE true), (56074790, .wait 450 450)] } = .next t
      ∧ t.trace = [] ++ (56074790, .lineE true) :: [(56074790, .wait 450 450)] ++ (56075240, .lineE false) :: [] :=
  ⟨_, ⟨secondEdge_block.stepInRange, secondEdge_block.fsm, secondEdge_block.oe, secondEdge_block.lineE,
    secondEdge_block.waiting, secondEdge_block.noWait, secondEdge_block.fcode, secondEdge_block.undriven⟩,
    ⟨by simp [eventEnd], by simp [eventEnd, secondEdge, ready, State.reset], Nat.le_refl _, by simp [eventEnd, eventMin],
      by simp [secondEdge, ready, State.reset]⟩, rfl, rfl⟩
theorem test_witness_StreamInvKept : ∃ t,
    BlockInv { secondEdge with trace := [(0, .lineRs true), (40, .dataLines 4), (490, .lineE false), (540, .dataLines 1)] }
      ∧ StreamInv { secondEdge with trace := [(0, .lineRs true), (40, .dataLines 4), (490, .lineE false), (540, .dataLines 1)] }
      ∧ step { secondEdge with trace := [(0, .lineRs true), (40, .dataLines 4), (490, .lineE false), (540, .dataLines 1)] }
        = .next t :=
  ⟨_, ⟨secondEdge_block.stepInRange, secondEdge_block.fsm, secondEdge_block.oe, secondEdge_block.lineE,
    secondEdge_block.waiting, secondEdge_block.noWait, secondEdge_block.fcode, secondEdge_block.undriven⟩,
    ⟨rfl, fun _ => ⟨rfl, rfl⟩⟩, rfl⟩
theorem test_witness_ScheduleInvKept : ∃ t, BlockInv secondEdge ∧ ScheduleInv secondEdge ∧ step secondEdge = .next t :=
  ⟨_, secondEdge_block, secondEdge_schedule, rfl⟩
theorem test_witness_SchedulesLatch_tx : ∃ t, BlockInv lastOfTx ∧ ScheduleInv lastOfTx ∧ step lastOfTx = .next t
    ∧ lastOfTx.sched = .tx ∧ t.sched = .none ∧ t.fsm = .ready :=
  ⟨_, lastOfTx_block, lastOfTx_schedule, rfl, rfl, rfl, rfl⟩
theorem test_witness_SchedulesLatch_init : ∃ t, BlockInv lastOfInit ∧ ScheduleInv lastOfInit ∧ step lastOfInit = .next t
    ∧ lastOfInit.sched = .init ∧ t.sched = .none ∧ t.fsm = .ready :=
  ⟨_, lastOfInit_block, lastOfInit_schedule, rfl, rfl, rfl, rfl⟩
theorem secondEdge_receiver : ReceiverInv secondEdge :=
  ⟨⟨rfl, rfl⟩, fun _ => by decide, by decide, fun h => (by cases h), fun _ h => (by cases h), fun _ h => (by cases h),
    fun _ => .inl rfl, fun _ => rfl⟩
theorem lastOfInit_receiver : ReceiverInv lastOfInit :=
  ⟨rfl, fun _ => by decide, by decide, fun h => (by cases h), fun _ h => (by cases h), fun _ h => (by cases h),
    fun h => (by cases h), fun _ => rfl⟩
theorem lastOfInit_fits : initFits lastOfInit := fun _ =>
  ⟨rfl, fun _ => rfl, fun _ => ⟨rfl, rfl⟩, fun _ => ⟨rfl, rfl, rfl, rfl, rfl⟩, fun _ => rfl, fun _ => rfl⟩

/-- The sum of the receiver's execution times: no execution takes longer. -/
@[irreducible] def slowest : Nat :=
  ((List.range 256).map fun n => Config.rExec false (BitVec.ofNat 8 n) + Config.rExec true (BitVec.ofNat 8 n)).sum
theorem rExec_le_slowest (rs : Bool) (b : Byte) : Config.rExec rs b ≤ slowest := by
  have le_sum : ∀ (l : List Nat) (x : Nat), x ∈ l → x ≤ l.sum := by
    intro l x hx
    induction l with
    | nil => cases hx
    | cons y l ih =>
      rw [List.sum_cons]
      obtain rfl | hx := List.mem_cons.mp hx
      · omega
      · have := ih hx; omega
  have h : Config.rExec false b + Config.rExec true b ≤ slowest := by
    unfold slowest
    exact le_sum _ _ (List.mem_map.mpr ⟨b.toNat, List.mem_range.mpr b.isLt, by simp⟩)
  cases rs <;> omega
/-- A configuration whose settles and bootstrap waits last as long as any execution. -/
def patient : Config :=
  { Config.initial with
    tBoot1 := 4100000 + slowest, tBoot2 := 100000 + slowest, tBoot3 := 100000 + slowest, tSwitch := 37000 + slowest
    tExec := 37000 + slowest, tData := 37000 + slowest, tClear := 1520000 + slowest }
theorem patient_suffices : SettleSuffices patient := by
  have le : ∀ rs b k, Config.rExec rs b ≤ k + slowest := fun rs b k => Nat.le_trans (rExec_le_slowest rs b) (by omega)
  refine ⟨fun rs b => ?_, fun _ => le _ _ _, fun _ => le _ _ _, fun _ => le _ _ _, fun _ => le _ _ _, fun _ => le _ _ _⟩
  unfold settleTime
  split <;> exact le _ _ _
theorem patient_legal : configLegal patient = true := by
  simp [configLegal, patient, Config.initial, PinMap.injective]

/-- The two transfers' witnesses, under the patient configuration. -/
def patientEdge : State := { secondEdge with cfg := patient }
theorem patientEdge_block : BlockInv patientEdge :=
  ⟨secondEdge_block.stepInRange, secondEdge_block.fsm, secondEdge_block.oe, secondEdge_block.lineE,
    secondEdge_block.waiting, secondEdge_block.noWait, secondEdge_block.fcode, secondEdge_block.undriven⟩
theorem patientEdge_receiver : ReceiverInv patientEdge :=
  ⟨⟨rfl, rfl⟩, fun _ => by decide, by decide, fun h => (by cases h), fun _ h => (by cases h), fun _ h => (by cases h),
    fun _ => .inl rfl, fun _ => rfl⟩
theorem patientEdge_steps : ∃ t, step patientEdge = .next t := by
  have h : step patientEdge = if configLegal patient then blockTurn patientEdge else .refused .illegalConfig := rfl
  rw [h, patient_legal, if_pos rfl]
  exact ⟨_, rfl⟩
theorem test_witness_ReceiverInvKept : ∃ t, SettleSuffices patientEdge.cfg ∧ BlockInv patientEdge
    ∧ ScheduleInv patientEdge ∧ ReceiverInv patientEdge ∧ step patientEdge = .next t :=
  have ⟨t, ht⟩ := patientEdge_steps
  ⟨t, patient_suffices, patientEdge_block, secondEdge_schedule, patientEdge_receiver, ht⟩
theorem test_witness_ReceiverNeverBusy : SettleSuffices patientEdge.cfg ∧ BlockInv patientEdge
    ∧ ScheduleInv patientEdge ∧ ReceiverInv patientEdge :=
  ⟨patient_suffices, patientEdge_block, secondEdge_schedule, patientEdge_receiver⟩
theorem test_witness_TransferReachesReceiver : BlockInv secondEdge ∧ ScheduleInv secondEdge ∧ ReceiverInv secondEdge
    ∧ secondEdge.sched = .tx ∧ secondEdge.step = 12 ∧ envTurn secondEdge = .next secondEdge
    ∧ configLegal secondEdge.cfg = true ∧ secondEdge.rst = false :=
  ⟨secondEdge_block, secondEdge_schedule, secondEdge_receiver, rfl, rfl, rfl, by decide, rfl⟩
theorem test_witness_InitReachesReadyReceiver : ∃ t, BlockInv lastOfInit ∧ ScheduleInv lastOfInit
    ∧ ReceiverInv lastOfInit ∧ initFits lastOfInit ∧ step lastOfInit = .next t ∧ lastOfInit.sched = .init
    ∧ t.sched = .none ∧ t.fsm = .ready :=
  ⟨_, lastOfInit_block, lastOfInit_schedule, lastOfInit_receiver, lastOfInit_fits, rfl, rfl, rfl, rfl⟩
theorem test_witness_ConfigFixed : ∃ t, step State.reset = .next t := ⟨_, rfl⟩
/-- The bounds of the clauses: the last row, the first beyond it, the last slot and the first beyond it. -/
theorem test_witness_SessionExpansions : (1 : Nat) ≤ 1 ∧ 1 < (2 : Nat) ∧ (7 : Nat) ≤ 7 ∧ 7 < (8 : Nat)
    ∧ (ApiCall.gotoXY 0 2).requests = [] ∧ faulted.client = [] ∧ faulted.emitting = false := by decide
theorem test_witness_SessionExpansions_done : ∃ t,
    clientDone { ready with emitting := true } = true ∧ step { ready with emitting := true } = .next t := ⟨_, rfl, rfl⟩
theorem test_witness_DecimalText : 0 < (1 : Nat) ∧ digits 10 = [0x31, 0x30] := by decide

end Sys2Proof.Tests
end

section
/-! Proofs about the scope of the model (spec/00_scope.md): which configurations have no step. -/

namespace Sys2Proof.Proofs

open Sys2Proof.Machine Sys2Proof.Laws

/-! ### The legality check -/

/-- R9 as propositions: each floor of R6 (P_T_SWITCH's is P_T_EXEC, P_T_DSU's is 0), the pin map and the long set. -/
theorem configLegal_iff (c : Config) : configLegal c = true ↔
    15000000 ≤ c.tPowerup ∧ 4100000 ≤ c.tBoot1 ∧ 100000 ≤ c.tBoot2 ∧ 100000 ≤ c.tBoot3 ∧ c.tExec ≤ c.tSwitch
      ∧ 40 ≤ c.tAs ∧ 450 ≤ c.tPw ∧ 50 ≤ c.tH ∧ 37000 ≤ c.tExec ∧ 37000 ≤ c.tData ∧ 1520000 ≤ c.tClear
      ∧ [c.pinMap.rs, c.pinMap.e, c.pinMap.d0, c.pinMap.d1, c.pinMap.d2, c.pinMap.d3].Nodup
      ∧ 0x01 ∈ c.longSet := by
  simp only [configLegal, PinMap.injective, Bool.and_eq_true, decide_eq_true_eq, List.contains_iff_mem, and_assoc]

/-- The causes of R9, as the negation of the legality check. -/
theorem configLegal_eq_false_iff (c : Config) : configLegal c = false ↔
    c.tPowerup < 15000000 ∨ c.tBoot1 < 4100000 ∨ c.tBoot2 < 100000 ∨ c.tBoot3 < 100000 ∨ c.tSwitch < c.tExec
      ∨ c.tAs < 40 ∨ c.tPw < 450 ∨ c.tH < 50 ∨ c.tExec < 37000 ∨ c.tData < 37000 ∨ c.tClear < 1520000
      ∨ ¬[c.pinMap.rs, c.pinMap.e, c.pinMap.d0, c.pinMap.d1, c.pinMap.d2, c.pinMap.d3].Nodup
      ∨ 0x01 ∉ c.longSet := by
  rw [← Bool.not_eq_true, configLegal_iff]
  simp only [not_and_or, Nat.not_le]

/-! ### The step under an illegal configuration -/

/-- R26: the environment's turn leaves the configuration alone. -/
theorem envTurn_cfg {s u : State} (h : envTurn s = .next u) : u.cfg = s.cfg := by
  rw [(envTurn_frame h).1]

/-- Once the environment's turn has answered, the legality check decides between the block's turn and the refusal. -/
theorem step_of_envTurn {s u : State} (h : envTurn s = .next u) :
    step s = if configLegal u.cfg then blockTurn u else .refused .illegalConfig := by
  rw [step, machineTurn, h, andThen_next]

/-- A step that answers a next state started from a legal configuration. -/
theorem configLegal_of_step {s t : State} (h : step s = .next t) : configLegal s.cfg = true := by
  obtain ⟨u, hu, legal, -⟩ := step_cases h
  exact envTurn_cfg hu ▸ legal

/-- The refusal is illegalConfig where the environment's turn answers. -/
theorem step_refused_of_illegal {s u : State} (illegal : configLegal s.cfg = false) (h : envTurn s = .next u) :
    step s = .refused .illegalConfig := by
  rw [step_of_envTurn h, envTurn_cfg h, illegal]
  rfl

/-- Settles O23: the causes of R9 are the negation of the legality check, and the environment's turn, which comes before
that check, does not change what it reads. -/
theorem illegalConfigRefused : Obligations.IllegalConfigRefused := by
  intro s cause
  have illegal : configLegal s.cfg = false := (configLegal_eq_false_iff s.cfg).mpr cause
  refine ⟨fun t h => ?_, fun u hu => step_refused_of_illegal illegal hu⟩
  exact Bool.false_ne_true (illegal.symm.trans (configLegal_of_step h))

end Sys2Proof.Proofs
end

section
/-! What an accepted request leaves alone, and the configuration, which every step does (spec/10_state.md R26). -/

namespace Sys2Proof.Proofs

open Sys2Proof.Machine Sys2Proof.Laws

/-- What an accepted request leaves alone: everything but the schedule, the data path, FSM, FCODE and the trace (R100, R101,
R115, R180). -/
structure RequestFixed (s t : State) : Prop where
  cfg : t.cfg = s.cfg
  rx : t.rx = s.rx
  now : t.now = s.now
  waitFrom : t.waitFrom = s.waitFrom
  reqValid : t.reqValid = s.reqValid
  reqWord : t.reqWord = s.reqWord
  client : t.client = s.client
  trace : t.trace = s.trace ∨ ∃ f, t.trace = s.trace ++ [(s.now, .state f)]

theorem request_fixed {w : ReqWord} {s t : State} (h : exec (decodeReq w) s = .next t) : RequestFixed s t := by
  obtain ⟨-, -, e⟩ | ⟨b, -, -, e⟩ | ⟨b, -, -, e⟩ | ⟨c, -, e⟩ := request_cases w s
  · cases e.symm.trans h
    exact ⟨rfl, rfl, rfl, rfl, rfl, rfl, rfl, .inr ⟨_, rfl⟩⟩
  · cases e.symm.trans h
    exact ⟨rfl, rfl, rfl, rfl, rfl, rfl, rfl, .inl rfl⟩
  · cases e.symm.trans h
    exact ⟨rfl, rfl, rfl, rfl, rfl, rfl, rfl, .inl rfl⟩
  · cases e.symm.trans h
    exact ⟨rfl, rfl, rfl, rfl, rfl, rfl, rfl, .inr ⟨_, rfl⟩⟩

/-- Settles O58: no part of a step writes the configuration. -/
theorem configFixed : Obligations.ConfigFixed := fun s _ h =>
  step_keeps (P := fun u => u.cfg = s.cfg) (fun _ _ same h => (envTurn_cfg h).trans same) (fun _ same => same)
    (fun _ _ _ same h => (runPhase_fixed h).1.trans same) (fun _ _ _ same h => (request_fixed h).cfg.trans same)
    (fun _ same => same) rfl h

end Sys2Proof.Proofs
end

section
/-! Proofs about the block's registers (spec/10_state.md R16-R22, R34): where a schedule has the block at each pc, what a
micro-operation makes of that, and that every step keeps the block's invariant. -/

namespace Sys2Proof.Proofs

open Sys2Proof.Machine Sys2Proof.Laws Sys2Proof.Safety

/-! ### What a micro-operation leaves in the block's registers -/

/-- FSM after a micro-operation (R95). -/
def fsmAfter (m : Micro) (f : Fsm) : Fsm :=
  match m with
  | .setFsm g => g
  | .cfg | .setRs _ | .setD _ | .eHi | .eLo | .wait _ | .load _ _ => f

/-- OE after a micro-operation (R88). -/
def oeAfter (m : Micro) (oe : Bool) : Bool :=
  match m with
  | .cfg => true
  | .setRs _ | .setD _ | .eHi | .eLo | .wait _ | .load _ _ | .setFsm _ => oe

/-- E after a micro-operation (R88, R91, R92). -/
def lineEAfter (m : Micro) (e : Bool) : Bool :=
  match m with
  | .eHi => true
  | .eLo | .cfg => false
  | .setRs _ | .setD _ | .wait _ | .load _ _ | .setFsm _ => e

/-- `levelAfter` reads E's level one micro-operation at a time. -/
theorem levelAfter_concat (ops : List Micro) (m : Micro) :
    levelAfter (ops ++ [m]) = lineEAfter m (levelAfter ops) := by
  cases m <;> simp [levelAfter, lineEAfter]

/-- What the block's invariant needs of a state in which micro-operation m, begun in s, is over, STEP not yet advanced. -/
structure MicroDone (m : Micro) (s u : State) : Prop where
  sched : u.sched = s.sched
  step : u.step = s.step
  fcode : u.fcode = s.fcode
  fsm : u.fsm = fsmAfter m s.fsm
  oe : u.oe = oeAfter m s.oe
  lineE : u.lineE = lineEAfter m s.lineE
  waitFrom : u.waitFrom = none
  waitRem : u.waitRem = 0
  undriven : u.oe = false → u.rx = s.rx ∧ u.powerUp = s.powerUp

/-- R21: while the lines are undriven, the receiver sees nothing of a falling edge. -/
theorem doELo_undriven {s u : State} (h : doELo s = .next u) (oe : s.oe = false) : u = dropE s := by
  simp only [doELo, oe, Bool.false_eq_true, if_false] at h
  cases h
  rfl

/-- A whole micro-operation, begun with no wait in progress. -/
theorem microEffect_done {m : Micro} {s u : State} (h : microEffect m s = .next u) (noWait : isWait m = false)
    (idle : s.waitFrom = none) (nothingOwed : s.waitRem = 0) : MicroDone m s u := by
  cases m with
  | wait w => cases noWait
  | eLo =>
    have frame : u = { dropE s with rx := u.rx, draws := u.draws } := doELo_frame h
    have same : s.oe = false → u.rx = s.rx := fun oe => by rw [doELo_undriven h oe, dropE_rx]
    rw [frame]
    exact ⟨rfl, rfl, rfl, rfl, rfl, rfl, idle, nothingOwed, fun oe => ⟨same oe, rfl⟩⟩
  | _ =>
    cases h
    exact ⟨rfl, rfl, rfl, rfl, rfl, rfl, idle, nothingOwed, fun _ => ⟨rfl, rfl⟩⟩

/-- A WAIT that ends. -/
theorem waitEnd_done (w : WaitOperand) (t : Nat) (s : State) : MicroDone (.wait w) s (waitEnd t s) :=
  ⟨rfl, rfl, rfl, rfl, rfl, rfl, rfl, rfl, fun _ => ⟨rfl, rfl⟩⟩

/-! ### Where the schedules have the block -/

/-- FSM at each pc of a schedule (R128); READY where it has ended. -/
def scheduleFsm (c : Sched) (k : Nat) : Fsm :=
  match c with
  | .init => if k ≤ 25 then .boot8 else .boot4
  | .tx | .none => .ready

/-- OE at each pc of a schedule (R34, R88); driven where it has ended. -/
def scheduleOe (c : Sched) (k : Nat) : Bool :=
  match c with
  | .init => decide (1 ≤ k)
  | .tx | .none => true

theorem fsmFits_iff_scheduleFsm {s : State} (inside : s.sched ≠ .none) :
    fsmFits s ↔ s.fsm = scheduleFsm s.sched s.step := by
  unfold fsmFits scheduleFsm
  cases hs : s.sched with
  | none => exact absurd hs inside
  | init => rfl
  | tx => rfl

theorem oeFits_iff_scheduleOe {s : State} (inside : s.sched ≠ .none) :
    oeFits s ↔ s.oe = scheduleOe s.sched s.step := by
  unfold oeFits scheduleOe
  cases hs : s.sched with
  | none => exact absurd hs inside
  | init => rfl
  | tx => rfl

theorem fsmFits_none_iff {s : State} (outside : s.sched = .none) :
    fsmFits s ↔ s.fsm = .uninit ∨ s.fsm = .ready ∨ s.fsm = .fault := by
  simp only [fsmFits, outside]

theorem oeFits_none_iff {s : State} (outside : s.sched = .none) :
    oeFits s ↔ (s.fsm = .uninit → s.oe = false) ∧ (s.fsm = .ready → s.oe = true) := by
  simp only [oeFits, outside]

/-- The end of a schedule counts as its place after the last step. -/
theorem fits_of_scheduleAt {s : State} (fsm : s.fsm = scheduleFsm s.sched s.step)
    (oe : s.oe = scheduleOe s.sched s.step) : fsmFits s ∧ oeFits s := by
  by_cases hs : s.sched = .none
  · rw [hs] at fsm oe
    exact ⟨(fsmFits_none_iff hs).mpr (.inr (.inl fsm)),
      (oeFits_none_iff hs).mpr ⟨fun h => (nomatch fsm.symm.trans h), fun _ => oe⟩⟩
  · exact ⟨(fsmFits_iff_scheduleFsm hs).mpr fsm, (oeFits_iff_scheduleOe hs).mpr oe⟩

/-- No schedule is ever at FAULT. -/
theorem scheduleFsm_ne_fault (c : Sched) (k : Nat) : scheduleFsm c k ≠ .fault := by
  cases c with
  | none => simp [scheduleFsm]
  | tx => simp [scheduleFsm]
  | init => by_cases hk : k ≤ 25 <;> simp [scheduleFsm, hk]

/-- A micro-operation takes FSM, OE and E from their place at pc to their place at the next pc. -/
theorem schedule_moves {c : Sched} {k : Nat} {m : Micro} (h : c.steps[k]? = some m) :
    fsmAfter m (scheduleFsm c k) = scheduleFsm (nextPc c k).1 (nextPc c k).2
      ∧ oeAfter m (scheduleOe c k) = scheduleOe (nextPc c k).1 (nextPc c k).2
      ∧ lineEAfter m (levelAfter (c.steps.take k)) = levelAfter ((nextPc c k).1.steps.take (nextPc c k).2) := by
  have all : ∀ c ∈ [Sched.none, .init, .tx], ∀ k < c.steps.length, ∀ m ∈ c.steps[k]?,
      fsmAfter m (scheduleFsm c k) = scheduleFsm (nextPc c k).1 (nextPc c k).2
        ∧ oeAfter m (scheduleOe c k) = scheduleOe (nextPc c k).1 (nextPc c k).2
        ∧ lineEAfter m (levelAfter (c.steps.take k))
          = levelAfter ((nextPc c k).1.steps.take (nextPc c k).2) := by decide +kernel
  have listed : c ∈ [Sched.none, .init, .tx] := by cases c <;> decide
  have inside : k < c.steps.length := (List.getElem?_eq_some_iff.mp h).1
  exact all c listed k inside m h

/-- The pc a step moves to lies inside its schedule, or is (NONE, 0). -/
theorem nextPc_inRange {c : Sched} {k : Nat} :
    ((nextPc c k).1 = .none ∧ (nextPc c k).2 = 0) ∨ (nextPc c k).2 < (nextPc c k).1.steps.length := by
  by_cases hl : k + 1 < c.steps.length
  · rw [nextPc_mid hl]; exact .inr hl
  · rw [nextPc_end (Nat.le_of_not_lt hl)]; exact .inl ⟨rfl, rfl⟩

/-! ### The parts of a step keep the block's invariant -/

/-- Outside a schedule no wait is in progress. -/
theorem waitFrom_of_outside {s : State} (inv : BlockInv s) (outside : s.sched = .none) : s.waitFrom = none := by
  cases hw : s.waitFrom with
  | none => rfl
  | some t0 =>
    obtain ⟨t, ht⟩ := inv.waiting (by rw [hw]; rfl)
    rw [outside] at ht
    cases ht

/-- Outside a schedule E is low while it is driven. -/
theorem lineE_of_outside {s : State} (inv : BlockInv s) (outside : s.sched = .none) (driven : s.oe = true) :
    s.lineE = false := by
  have h := inv.lineE driven
  rw [opsDone, outside] at h
  simpa [Sched.steps, levelAfter] using h

/-- At a micro-operation that is no WAIT none is in progress. -/
theorem waitFrom_of_micro {s : State} {m : Micro} (inv : BlockInv s) (at_pc : s.sched.steps[s.step]? = some m)
    (noWait : isWait m = false) : s.waitFrom = none := by
  cases hw : s.waitFrom with
  | none => rfl
  | some t0 =>
    obtain ⟨t, ht⟩ := inv.waiting (by rw [hw]; rfl)
    rw [at_pc] at ht
    cases ht
    cases noWait

/-- A single nibble's group begins at a micro-operation that is no WAIT. -/
theorem waitFrom_of_fetchNibble {s : State} (inv : BlockInv s) (h : fetchNibble s ≠ none) : s.waitFrom = none := by
  obtain ⟨i, hi⟩ := Option.ne_none_iff_exists'.mp h
  obtain ⟨hs, ⟨hk | hk | hk, -⟩ | ⟨hk, -⟩⟩ := fetchNibble_cases hi
  · exact waitFrom_of_micro (m := .setD (.const 0x3)) inv (by rw [hs, hk]; rfl) rfl
  · exact waitFrom_of_micro (m := .setD (.const 0x3)) inv (by rw [hs, hk]; rfl) rfl
  · exact waitFrom_of_micro (m := .setD (.const 0x3)) inv (by rw [hs, hk]; rfl) rfl
  · exact waitFrom_of_micro (m := .setFsm .boot4) inv (by rw [hs, hk]; rfl) rfl

/-- Time alone touches nothing of the block. -/
theorem blockInv_elapse {s : State} (inv : BlockInv s) : BlockInv (elapse s) :=
  ⟨inv.stepInRange, inv.fsm, inv.oe, inv.lineE, inv.waiting, inv.noWait, inv.fcode, inv.undriven⟩

/-- The block while rst = 1. -/
theorem blockInv_holdReset (s : State) : BlockInv (holdReset s) where
  stepInRange := .inl ⟨rfl, rfl⟩
  fsm := .inl rfl
  oe := ⟨fun _ => rfl, fun h => by cases h⟩
  lineE h := by cases h
  waiting h := by cases h
  noWait _ := rfl
  fcode := by simp
  undriven _ := rfl

/-- The environment touches nothing of the block; power applied to a receiver leaves it unknown. -/
theorem blockInv_envTurn {s t : State} (inv : BlockInv s) (h : envTurn s = .next t) : BlockInv t := by
  obtain ⟨frame, power⟩ := envTurn_frame h
  have undriven : t.oe = false → t.rx = Receiver.unknown t.powerUp := fun oe => by
    obtain ⟨hp, hr⟩ | ⟨-, hp, hr⟩ := power
    · rw [hp, hr]
      rw [frame] at oe
      exact inv.undriven oe
    · rw [hp, hr]
  rw [frame] at undriven ⊢
  exact ⟨inv.stepInRange, inv.fsm, inv.oe, inv.lineE, inv.waiting, inv.noWait, inv.fcode, undriven⟩

/-- A WAIT that begins is in progress at its own pc. -/
theorem blockInv_waitBegin {s : State} {w : WaitOperand} (inv : BlockInv s)
    (at_pc : s.sched.steps[s.step]? = some (.wait w)) (t : Nat) : BlockInv (waitBegin t s) :=
  ⟨inv.stepInRange, inv.fsm, inv.oe, inv.lineE, fun _ => ⟨w, at_pc⟩, fun h => (nomatch h), inv.fcode, inv.undriven⟩

/-- A micro-operation that is over leaves the block where the schedule has it at the next pc. -/
theorem blockInv_advance {s u : State} {m : Micro} (inv : BlockInv s) (at_pc : s.sched.steps[s.step]? = some m)
    (done : MicroDone m s u) : BlockInv (advance u) := by
  have inside : s.sched ≠ .none := fun hs => by rw [hs] at at_pc; cases at_pc
  have fsm : s.fsm = scheduleFsm s.sched s.step := (fsmFits_iff_scheduleFsm inside).mp inv.fsm
  have oe : s.oe = scheduleOe s.sched s.step := (oeFits_iff_scheduleOe inside).mp inv.oe
  obtain ⟨fsm_moves, oe_moves, lineE_moves⟩ := schedule_moves at_pc
  have sched' : (advance u).sched = (nextPc s.sched s.step).1 := by rw [advance_sched, done.sched, done.step]
  have step' : (advance u).step = (nextPc s.sched s.step).2 := by rw [advance_step, done.sched, done.step]
  have fsm' : (advance u).fsm = scheduleFsm (advance u).sched (advance u).step := by
    rw [sched', step', ← fsm_moves, advance_fsm, done.fsm, fsm]
  have oe' : (advance u).oe = scheduleOe (advance u).sched (advance u).step := by
    rw [sched', step', ← oe_moves, advance_oe, done.oe, oe]
  have fits := fits_of_scheduleAt fsm' oe'
  exact {
    stepInRange := by rw [sched', step']; exact nextPc_inRange
    fsm := fits.1
    oe := fits.2
    lineE := fun driven => by
      rw [opsDone, sched', step', ← lineE_moves, advance_lineE, done.lineE]
      rw [advance_oe, done.oe] at driven
      cases m with
      | cfg => rfl
      | _ => exact congrArg _ (inv.lineE driven)
    waiting := fun h => by rw [advance_waitFrom, done.waitFrom] at h; cases h
    noWait := fun _ => done.waitRem
    fcode := by
      have noFault : s.fsm ≠ .fault := fsm ▸ scheduleFsm_ne_fault _ _
      have noFault' : (advance u).fsm ≠ .fault := fsm' ▸ scheduleFsm_ne_fault _ _
      have clear : (advance u).fcode = .none := by
        rw [advance_fcode, done.fcode]
        exact not_not.mp fun h => noFault (inv.fcode.mpr h)
      simp only [noFault', clear, ne_eq, not_true_eq_false]
    undriven := fun released => by
      obtain ⟨hr, hp⟩ := done.undriven released
      have released : s.oe = false := by
        rw [advance_oe, done.oe] at released
        cases m with
        | cfg => cases released
        | _ => exact released
      rw [advance_rx, advance_powerUp, hr, hp]
      exact inv.undriven released }

/-- A due phase. -/
theorem blockInv_duePhase {m : Micro} {s t : State} (inv : BlockInv s) (at_pc : s.sched.steps[s.step]? = some m)
    (h : runPhase (m.duePhase s) s = .next t) : BlockInv t := by
  obtain ⟨w, rfl, -, rfl⟩ | ⟨w, rfl, -, rfl⟩ | ⟨noWait, u, hu, rfl⟩ := duePhase_cases h
  · exact blockInv_waitBegin inv at_pc _
  · exact blockInv_advance inv at_pc (waitEnd_done w _ s)
  · have idle := waitFrom_of_micro inv at_pc noWait
    exact blockInv_elapse (blockInv_advance inv at_pc (microEffect_done hu noWait idle (inv.noWait idle)))

/-- INIT accepted in UNINIT (R115). -/
theorem blockInv_startInit {s : State} (inv : BlockInv s) (outside : s.sched = .none) (fsm : s.fsm = .uninit) :
    BlockInv (startInit s) := by
  have released : s.oe = false := ((oeFits_none_iff outside).mp inv.oe).1 fsm
  have idle := waitFrom_of_outside inv outside
  have clear : s.fcode = .none := not_not.mp fun h => by
    have := inv.fcode.mpr h
    rw [fsm] at this
    cases this
  exact ⟨.inr (show 0 < Sched.init.steps.length by decide), rfl, released, fun h => (nomatch released.symm.trans h),
    fun h => absurd h (by simp [idle]), inv.noWait, by simp [clear], inv.undriven⟩

/-- A byte transfer accepted in READY (R100, R101). -/
theorem blockInv_startTx {s : State} (inv : BlockInv s) (outside : s.sched = .none) (fsm : s.fsm = .ready) (rs : Bool)
    (b : Byte) : BlockInv (startTx rs b s) := by
  have driven : s.oe = true := ((oeFits_none_iff outside).mp inv.oe).2 fsm
  have low : s.lineE = false := lineE_of_outside inv outside driven
  have idle := waitFrom_of_outside inv outside
  exact ⟨.inr (show 0 < Sched.tx.steps.length by decide), fsm, driven, fun _ => low, fun h => absurd h (by simp [idle]),
    inv.noWait, inv.fcode, inv.undriven⟩

/-- A fault taken (R180). -/
theorem blockInv_takeFault {s : State} (inv : BlockInv s) (outside : s.sched = .none) {c : FaultCode}
    (cause : c ≠ .none) : BlockInv (takeFault c s) := by
  have low : s.oe = true → s.lineE = false := lineE_of_outside inv outside
  have idle := waitFrom_of_outside inv outside
  exact ⟨.inl ⟨rfl, rfl⟩, .inr (.inr rfl), ⟨fun h => (nomatch h), fun h => (nomatch h)⟩,
    low, fun h => absurd h (by simp [idle]), inv.noWait, by simp [cause], inv.undriven⟩

/-- An accepted request. -/
theorem blockInv_request {s t : State} (inv : BlockInv s) (accepts : s.accepts = true)
    (h : exec (decodeReq s.reqWord) { s with reqValid := false } = .next t) : BlockInv t := by
  obtain ⟨-, outside, -, -⟩ := accepts_iff.mp accepts
  have inv' : BlockInv { s with reqValid := false } :=
    ⟨inv.stepInRange, inv.fsm, inv.oe, inv.lineE, inv.waiting, inv.noWait, inv.fcode, inv.undriven⟩
  obtain ⟨-, fsm, e⟩ | ⟨b, -, fsm, e⟩ | ⟨b, -, fsm, e⟩ | ⟨c, cause, e⟩ :=
    request_cases s.reqWord { s with reqValid := false }
  · cases e.symm.trans h
    exact blockInv_startInit inv' outside fsm
  · cases e.symm.trans h
    exact blockInv_startTx inv' outside fsm _ _
  · cases e.symm.trans h
    exact blockInv_startTx inv' outside fsm _ _
  · cases e.symm.trans h
    exact blockInv_takeFault inv' outside cause

/-- Settles O45: each part of a step keeps the invariant; a micro-operation takes FSM, OE and E from where the schedule has
them at pc to where it has them at the next. -/
theorem blockInvKept : Obligations.BlockInvKept := fun _ _ inv h =>
  step_keeps_due (P := BlockInv) (fun _ _ => blockInv_envTurn) (fun s _ => blockInv_holdReset s)
    (fun _ _ _ => blockInv_duePhase) (fun _ => waitFrom_of_fetchNibble)
    (fun _ _ inv accepts h => blockInv_elapse (blockInv_request inv accepts h)) (fun _ inv _ => blockInv_elapse inv) inv h

end Sys2Proof.Proofs
end

section
/-! Proofs about the receiver's memories (spec/10_state.md R30, 20_memory.md R45, R54, R55): what an executed byte does to
them, and that every step keeps their canonical form. -/

namespace Sys2Proof.Proofs

open Sys2Proof.Machine Sys2Proof.Laws

/-- R68: with RS = 1 every byte is a data write. -/
theorem decodeBus_write (b : Byte) : decodeBus (busWord true b) = .writeData b := by
  revert b; decide +kernel

/-- Every data write that is not refused keeps the form (R170). -/
theorem writeDataEffect_wf {b : Byte} {r r' : Receiver} (w : r.mem.wf = true) (h : writeDataEffect b r = .next r') :
    r'.mem.wf = true := by
  unfold writeDataEffect writeDdEffect at h
  split at h
  · split at h
    · cases h; exact wf_writeDd w _ b
    · cases h
  · cases h; exact wf_writeCg w _ b
  · cases h

/-- Every executed byte keeps the form: a data write and a clear by their own effects, any other byte because it leaves
both memories alone (R176). -/
theorem rxExec_wf {rs : Bool} {b : Byte} {s t : State} (w : s.rx.mem.wf = true) (h : rxExec rs b s = .next t) :
    t.rx.mem.wf = true := by
  cases rs with
  | true =>
    rw [rxExec_eq_exec, decodeBus_write, exec_writeData] at h
    obtain ⟨-, r, hr, rfl⟩ := rxTransfer_cases h
    have written : r.mem.wf = true := writeDataEffect_wf w hr
    exact written
  | false =>
    by_cases isClear : b = 0x01
    · have hd : decodeBus (busWord false 0x01) = .clearDisplay := by decide
      rw [isClear, rxExec_eq_exec, hd, exec_clearDisplay] at h
      obtain ⟨-, r, hr, rfl⟩ := rxTransfer_cases h
      cases hr
      exact wf_clearDd w
    · obtain ⟨f, effect⟩ := rxExec_instruction b
      rw [effect.transfer] at h
      obtain ⟨-, r, hr, rfl⟩ := rxTransfer_cases h
      cases hr
      exact (congrArg Memory.wf (effect.mem isClear s.rx)).trans w

/-- A latch stores a nibble or executes a byte: it leaves the memories alone, or does what that byte does to them. -/
theorem rxLatch_mem_cases {rs : Bool} {n : Nibble} {s t : State} (h : rxLatch rs n s = .next t) :
    t.rx.mem = s.rx.mem ∨ ∃ b u, u.rx.mem = s.rx.mem ∧ rxExec rs b u = .next t := by
  have known : ∀ (f : Framing) (u : State), u.rx.mem = s.rx.mem → latchIn f rs n u = .next t →
      t.rx.mem = s.rx.mem ∨ ∃ b u, u.rx.mem = s.rx.mem ∧ rxExec rs b u = .next t := by
    intro f u hu hl
    cases f with
    | m8 => exact .inr ⟨_, { u with draws := u.draws + 1 }, hu, hl⟩
    | m4h => cases hl; exact .inl hu
    | m4l =>
      simp only [latchIn] at hl
      split at hl
      · refine .inr ⟨_, _, ?_, hl⟩
        exact hu
      · refine .inr ⟨_, _, ?_, hl⟩
        exact hu
  unfold rxLatch at h
  split at h
  · exact known _ s rfl h
  · refine known _ _ ?_ h
    rfl

/-- A falling edge of E keeps the form. -/
theorem doELo_wf {s t : State} (w : s.rx.mem.wf = true) (h : doELo s = .next t) : t.rx.mem.wf = true := by
  unfold doELo at h
  split at h
  · obtain same | ⟨b, u, same, hb⟩ := rxLatch_mem_cases h
    · rw [same]; exact w
    · exact rxExec_wf (by rw [same]; exact w) hb
  · cases h; exact w

/-- A phase keeps the form: only a falling edge of E reaches the receiver (R47). -/
theorem runPhase_wf {p : Phase} {s t : State} (w : s.rx.mem.wf = true) (h : runPhase p s = .next t) :
    t.rx.mem.wf = true := by
  cases p with
  | waitBegin t => cases h; exact w
  | waitEnd t => cases h; exact w
  | whole m =>
    obtain ⟨u, hu, rfl⟩ := runPhase_whole_cases h
    by_cases edge : m = .eLo
    · subst edge
      have kept : u.rx.mem.wf = true := doELo_wf w hu
      exact kept
    · rw [elapse_rx, advance_rx, microEffect_rx hu edge]
      exact w

/-- The environment's turn keeps the form: a receiver whose power is applied has nothing listed. -/
theorem envTurn_wf {s t : State} (w : s.rx.mem.wf = true) (h : envTurn s = .next t) : t.rx.mem.wf = true := by
  obtain ⟨-, ⟨-, same⟩ | ⟨-, -, unknown⟩⟩ := envTurn_frame h
  · rw [same]; exact w
  · rw [unknown]; exact wf_unknown

/-- Settles O48: only the execution of a byte, the application of power and a reset change the memories, and each leaves
them in canonical form. -/
theorem memoryFormKept : Obligations.MemoryFormKept := fun _ _ w h =>
  step_keeps (P := fun s => s.rx.mem.wf = true) (fun _ _ => envTurn_wf) (fun _ _ => wf_unknown)
    (fun _ _ _ => runPhase_wf) (fun _ _ _ w h => by rw [(request_fixed h).rx]; exact w) (fun _ w => w) w h

end Sys2Proof.Proofs
end

section
/-! Proofs about time (spec/10_state.md R22, 40_pin_timing.md R86, R87, R93): a wait lasts what it asks for, and every step
keeps the trace in order. -/

namespace Sys2Proof.Proofs

open Sys2Proof.Machine Sys2Proof.Laws Sys2Proof.Safety

/-- Settles O22: what WAIT_REM still owes at the beginning is paid at the end, and neither end of a wait touches a line. -/
theorem waitLasts : Obligations.WaitLasts := by
  intro t s e he
  obtain ⟨rst, valid, word, client, emitting, host, rfl⟩ : ∃ rst valid word client emitting host,
      e = { waitBegin t s with
        rst := rst, reqValid := valid, reqWord := word, client := client, emitting := emitting, host := host } :=
    ⟨_, _, _, _, _, _, he⟩
  have lasts : s.now + t ≤ s.now + Config.freeDelay s.draws + (t - Config.freeDelay s.draws)
      + Config.freeDelay (s.draws + 1) := by omega
  exact ⟨lasts, rfl, rfl, rfl, rfl, rfl, rfl, rfl, rfl⟩

/-! ### Events without duration -/

/-- An event that is no wait happens in an instant (R86). -/
def isInstant (e : Event) : Bool :=
  match e with
  | .wait _ _ => false
  | .cfg | .lineRs _ | .dataLines _ | .lineE _ | .state _ => true

theorem eventEnd_instant {e : Event} (h : isInstant e = true) (τ : Nat) : eventEnd (τ, e) = τ := by
  cases e with
  | wait t d => cases h
  | _ => rfl

theorem eventMin_instant {e : Event} (h : isInstant e = true) (τ : Nat) : eventMin (τ, e) = 0 := by
  cases e with
  | wait t d => cases h
  | _ => rfl

/-- From s to t the trace gains at most one event, an instant at the time of s. -/
def GainsInstant (s t : State) : Prop :=
  t.trace = s.trace ∨ ∃ e, isInstant e = true ∧ t.trace = s.trace ++ [(s.now, e)]

/-- A micro-operation that is no WAIT takes no time of its own and gains at most one instant event. -/
theorem microEffect_instant {m : Micro} {s u : State} (h : microEffect m s = .next u) (noWait : isWait m = false) :
    u.waitFrom = s.waitFrom ∧ u.now = s.now ∧ GainsInstant s u := by
  cases m with
  | wait w => cases noWait
  | eLo =>
    have frame : u = { dropE s with rx := u.rx, draws := u.draws } := doELo_frame h
    rw [frame]
    exact ⟨rfl, rfl, .inr ⟨.lineE false, rfl, rfl⟩⟩
  | load rs b => cases h; exact ⟨rfl, rfl, .inl rfl⟩
  | _ => cases h; exact ⟨rfl, rfl, .inr ⟨_, rfl, rfl⟩⟩

/-! ### The parts of a step keep time in order -/

/-- With no wait in progress, time is in order as soon as the trace is and the present has not been passed. -/
theorem timeInv_of_idle {s : State} (idle : s.waitFrom = none)
    (ordered : s.trace.Pairwise fun a b => eventEnd a ≤ b.1) (past : ∀ e ∈ s.trace, eventEnd e ≤ s.now)
    (waited : ∀ e ∈ s.trace, e.1 + eventMin e ≤ eventEnd e) : TimeInv s where
  ordered := ordered
  past := by simpa [idle] using past
  began := by simp [idle]
  waited := waited
  owed t0 t h := by rw [idle] at h; cases h

/-- No event ends after the present. -/
theorem eventEnd_le_now {s : State} (inv : TimeInv s) : ∀ e ∈ s.trace, eventEnd e ≤ s.now :=
  fun e he => (inv.past e he).trans inv.began

/-- An event put at the end of the trace, no earlier than the last one ended, that lasts what it asked for and is over. -/
theorem timeInv_append {s t : State} {e : Nat × Event} (inv : TimeInv s) (trace : t.trace = s.trace ++ [e])
    (idle : t.waitFrom = none) (begins : s.waitFrom.getD s.now ≤ e.1) (lasts : e.1 + eventMin e ≤ eventEnd e)
    (isOver : eventEnd e ≤ t.now) : TimeInv t := by
  have started : e.1 ≤ eventEnd e := (Nat.le_add_right _ _).trans lasts
  have before : ∀ a ∈ s.trace, eventEnd a ≤ e.1 := fun a ha => (inv.past a ha).trans begins
  refine timeInv_of_idle idle ?_ ?_ ?_
  · rw [trace, List.pairwise_append]
    exact ⟨inv.ordered, List.pairwise_singleton _ _, fun a ha b hb => List.mem_singleton.mp hb ▸ before a ha⟩
  · rw [trace]
    exact List.forall_mem_append.mpr ⟨fun a ha => ((before a ha).trans started).trans isOver, by simpa using isOver⟩
  · rw [trace]
    exact List.forall_mem_append.mpr ⟨inv.waited, by simpa using lasts⟩

/-- Time passes, no event, or one instant event at its beginning, and no wait in progress before or after. -/
theorem timeInv_instant {s t : State} (inv : TimeInv s) (idle : s.waitFrom = none) (idle' : t.waitFrom = none)
    (later : s.now ≤ t.now) (gains : GainsInstant s t) : TimeInv t := by
  obtain same | ⟨e, instant, trace⟩ := gains
  · refine timeInv_of_idle idle' ?_ ?_ ?_
    · rw [same]; exact inv.ordered
    · rw [same]; exact fun e he => (eventEnd_le_now inv e he).trans later
    · rw [same]; exact inv.waited
  · refine timeInv_append inv trace idle' ?_ ?_ ?_
    · simp [idle]
    · rw [eventEnd_instant instant, eventMin_instant instant]; exact Nat.le_refl _
    · rw [eventEnd_instant instant]; exact later

theorem timeInv_elapse {s : State} (inv : TimeInv s) (idle : s.waitFrom = none) : TimeInv (elapse s) :=
  timeInv_instant inv idle idle (Nat.le_add_right _ _) (.inl rfl)

/-- rst drops a wait in progress and leaves no event of it (R200). -/
theorem timeInv_holdReset {s : State} (inv : TimeInv s) : TimeInv (holdReset s) :=
  timeInv_of_idle rfl inv.ordered (fun e he => (eventEnd_le_now inv e he).trans (Nat.le_add_right _ _)) inv.waited

/-- What a WAIT asks for is fixed by the configuration and the SETTLE register (R93). -/
theorem waitValue_congr {s t : State} (w : WaitOperand) (cfg : t.cfg = s.cfg) (settle : t.settle = s.settle) :
    w.value t = w.value s := by
  cases w <;> simp only [WaitOperand.value, cfg, settle]

/-- The environment's turn takes no time. -/
theorem timeInv_envTurn {s t : State} (inv : TimeInv s) (h : envTurn s = .next t) : TimeInv t := by
  have frame := (envTurn_frame h).1
  have value : ∀ w : WaitOperand, w.value t = w.value s :=
    fun w => waitValue_congr w (by rw [frame]) (by rw [frame])
  have owed := inv.owed
  simp only [← value] at owed
  rw [frame] at owed ⊢
  exact ⟨inv.ordered, inv.past, inv.began, inv.waited, owed⟩

/-- A WAIT begins: it owes what it asks for. -/
theorem timeInv_waitBegin {s : State} {w : WaitOperand} (inv : TimeInv s)
    (at_pc : s.sched.steps[s.step]? = some (.wait w)) : TimeInv (waitBegin (w.value s) s) where
  ordered := inv.ordered
  past := eventEnd_le_now inv
  began := Nat.le_add_right _ _
  waited := inv.waited
  owed t0 t from_t0 at_pc' := by
    cases from_t0
    cases at_pc.symm.trans at_pc'
    rw [waitValue_congr w (waitBegin_cfg s _) (waitBegin_settle s _), waitBegin_now, waitBegin_waitRem]
    omega

/-- A WAIT ends: its event begins where the wait did and lasts until the present. -/
theorem timeInv_waitEnd {s : State} {w : WaitOperand} (inv : TimeInv s) (waiting : s.waitFrom ≠ none)
    (at_pc : s.sched.steps[s.step]? = some (.wait w)) : TimeInv (waitEnd (w.value s) s) := by
  obtain ⟨t0, from_t0⟩ := Option.ne_none_iff_exists'.mp waiting
  have began : t0 ≤ s.now := by simpa [from_t0] using inv.began
  have owed : w.value s ≤ s.now - t0 + s.waitRem := inv.owed t0 w from_t0 at_pc
  refine timeInv_append inv (waitEnd_trace s _) rfl ?_ ?_ ?_
  · exact Nat.le_refl _
  · simp only [from_t0, Option.getD_some, eventMin, eventEnd]
    omega
  · simp only [from_t0, Option.getD_some, eventEnd, waitEnd_now]
    omega

/-- A due phase. -/
theorem timeInv_duePhase {m : Micro} {s t : State} (block : BlockInv s) (inv : TimeInv s)
    (at_pc : s.sched.steps[s.step]? = some m) (h : runPhase (m.duePhase s) s = .next t) : TimeInv t := by
  obtain ⟨w, rfl, -, rfl⟩ | ⟨w, rfl, waiting, rfl⟩ | ⟨noWait, u, hu, rfl⟩ := duePhase_cases h
  · exact timeInv_waitBegin inv at_pc
  · have ended := timeInv_waitEnd inv waiting at_pc
    have past := eventEnd_le_now ended
    exact timeInv_of_idle rfl ended.ordered past ended.waited
  · have idle := waitFrom_of_micro block at_pc noWait
    obtain ⟨hw, hn, gains⟩ := microEffect_instant hu noWait
    exact timeInv_instant inv idle (hw.trans idle) (hn ▸ Nat.le_add_right _ _) gains

/-- An accepted request, and the time that passes there. -/
theorem timeInv_request {s t : State} (block : BlockInv s) (inv : TimeInv s) (accepts : s.accepts = true)
    (h : exec (decodeReq s.reqWord) { s with reqValid := false } = .next t) : TimeInv (elapse t) := by
  obtain ⟨-, outside, -, -⟩ := accepts_iff.mp accepts
  have idle := waitFrom_of_outside block outside
  have fixed := request_fixed h
  have gains : GainsInstant s t := fixed.trace.imp_right fun ⟨f, hf⟩ => ⟨.state f, rfl, hf⟩
  have later : s.now ≤ (elapse t).now := by
    rw [elapse_now, fixed.now]
    exact Nat.le_add_right _ _
  exact timeInv_instant inv idle (fixed.waitFrom.trans idle) later gains

/-- Settles O49, beside the block's invariant, by which a wait is in progress only at a WAIT. -/
theorem timeInvKept : Obligations.TimeInvKept := fun _ _ block inv h =>
  (step_keeps_due (P := fun s => BlockInv s ∧ TimeInv s)
    (fun _ _ ⟨block, inv⟩ h => ⟨blockInv_envTurn block h, timeInv_envTurn inv h⟩)
    (fun s ⟨_, inv⟩ => ⟨blockInv_holdReset s, timeInv_holdReset inv⟩)
    (fun _ _ _ ⟨block, inv⟩ at_pc h => ⟨blockInv_duePhase block at_pc h, timeInv_duePhase block inv at_pc h⟩)
    (fun _ ⟨block, _⟩ => waitFrom_of_fetchNibble block)
    (fun _ _ ⟨block, inv⟩ accepts h =>
      ⟨blockInv_elapse (blockInv_request block accepts h), timeInv_request block inv accepts h⟩)
    (fun _ ⟨block, inv⟩ outside => ⟨blockInv_elapse block, timeInv_elapse inv (waitFrom_of_outside block outside)⟩)
    ⟨block, inv⟩ h).2

end Sys2Proof.Proofs
end

section
/-! Proofs about the ports and about what a step runs (spec/10_state.md R17, R21, R23, R24, 60_exceptions.md R187): the
outputs, the request a step accepts, the phase a schedule runs, and what stays at the port meanwhile. -/

namespace Sys2Proof.Proofs

open Sys2Proof.Machine Sys2Proof.Laws Sys2Proof.Safety

/-! ### Outputs -/

/-- While the lines are driven, an injective pin map puts each signal on a line of its own. -/
theorem pinLevel_driven {s : State} (driven : s.oe = true) (injective : PinMap.injective s.cfg.pinMap = true) :
    s.pinLevel s.cfg.pinMap.rs = some s.lineRs
      ∧ s.pinLevel s.cfg.pinMap.e = some s.lineE
      ∧ s.pinLevel s.cfg.pinMap.d0 = some (s.lineD.getLsbD 0)
      ∧ s.pinLevel s.cfg.pinMap.d1 = some (s.lineD.getLsbD 1)
      ∧ s.pinLevel s.cfg.pinMap.d2 = some (s.lineD.getLsbD 2)
      ∧ s.pinLevel s.cfg.pinMap.d3 = some (s.lineD.getLsbD 3) := by
  simp only [PinMap.injective, decide_eq_true_eq, List.nodup_cons, List.mem_cons, List.not_mem_nil, or_false, not_or]
    at injective
  refine ⟨?_, ?_, ?_, ?_, ?_, ?_⟩ <;> simp [State.pinLevel, driven, injective, eq_comm]

theorem pinLevel_released {s : State} (released : s.oe = false) (line : Nat) : s.pinLevel line = none := by
  simp [State.pinLevel, released]

/-- Settles O7: the encodings are those of the definitions, and the lines follow OE and the pin map. -/
theorem outputs : Obligations.Outputs :=
  ⟨fun _ => ⟨rfl, rfl, rfl⟩, fun _ => pinLevel_driven, fun _ line released => pinLevel_released released line⟩

/-! ### What a turn of the block runs -/

/-- R187: with rst = 0, a schedule goes before acceptance. -/
theorem blockTurn_inside {u : State} (noReset : u.rst = false) (inside : u.sched ≠ .none) :
    blockTurn u = scheduleTurn u := by
  simp [blockTurn, noReset, inside]

theorem blockTurn_accepting {u : State} (accepts : u.accepts = true) : blockTurn u = acceptTurn u := by
  obtain ⟨-, outside, -, noReset⟩ := accepts_iff.mp accepts
  simp [blockTurn, noReset, outside, accepts]

/-- A step that finds an acceptable request is the turn that accepts it. -/
theorem step_accepting {s u : State} (env : envTurn s = .next u) (legal : configLegal u.cfg = true)
    (accepts : u.accepts = true) : step s = acceptTurn u := by
  rw [step_of_envTurn env, if_pos legal, blockTurn_accepting accepts]

/-- Inside a schedule, with rst = 0, a step is the schedule's turn. -/
theorem step_inside {s u : State} (env : envTurn s = .next u) (legal : configLegal u.cfg = true)
    (noReset : u.rst = false) (inside : u.sched ≠ .none) : step s = scheduleTurn u := by
  rw [step_of_envTurn env, if_pos legal, blockTurn_inside noReset inside]

/-- Settles O16: acceptTurn executes the decoded word. -/
theorem stepRunsRequest : Obligations.StepRunsRequest := by
  intro s u i env legal accepts decoded
  have word : decodeReq u.reqWord = i := Except.ok.inj decoded
  rw [step_accepting env legal accepts, acceptTurn, word]

/-- A single nibble's group begins only in the INIT schedule. -/
theorem inside_of_nibbleAt {u : State} {w : BitVec 5} (h : nibbleAt u = some w) : u.sched ≠ .none := by
  intro outside
  simp [nibbleAt, outside] at h

/-- Settles O17: the schedule's turn runs the nibble that begins at pc, else the phase due there. -/
theorem stepRunsSchedule : Obligations.StepRunsSchedule := by
  refine ⟨fun s u w i env legal noReset nibble decoded => ?_, fun s u m env legal noReset at_pc noNibble => ?_⟩
  · have decoded : decodeNib w = .ok i := decoded
    have fetched : fetchNibble u = some i := by simp [fetchNibble, nibble, decoded, Except.toOption]
    rw [step_inside env legal noReset (inside_of_nibbleAt nibble), scheduleTurn, fetched]
  · have fetched : fetchNibble u = none := by simp [fetchNibble, noNibble]
    have inside : u.sched ≠ .none := fun outside => by rw [outside] at at_pc; cases at_pc
    rw [step_inside env legal noReset inside, scheduleTurn, fetched, at_pc]

/-! ### The port while a schedule runs and the host is idle -/

/-- The request port and the client's list. -/
structure PortKept (s t : State) : Prop where
  reqValid : t.reqValid = s.reqValid
  reqWord : t.reqWord = s.reqWord
  client : t.client = s.client

theorem PortKept.trans {s t u : State} (first : PortKept s t) (second : PortKept t u) : PortKept s u :=
  ⟨second.reqValid.trans first.reqValid, second.reqWord.trans first.reqWord, second.client.trans first.client⟩

/-- No phase touches the port. -/
theorem runPhase_portKept {p : Phase} {s t : State} (h : runPhase p s = .next t) : PortKept s t := by
  obtain ⟨-, -, valid, word, client, -⟩ := runPhase_fixed h
  exact ⟨valid, word, client⟩

/-- A phase leaves pc where it is, or moves it to the next. -/
theorem runPhase_pc {p : Phase} {s t : State} (h : runPhase p s = .next t) :
    (t.sched = s.sched ∧ t.step = s.step) ∨ (t.sched = (advance s).sched ∧ t.step = (advance s).step) := by
  cases p with
  | waitBegin w => cases h; exact .inl ⟨rfl, rfl⟩
  | waitEnd w => cases h; exact .inr ⟨rfl, rfl⟩
  | whole m =>
    obtain ⟨u, hu, rfl⟩ := runPhase_whole_cases h
    cases m with
    | eLo =>
      have frame : u = { dropE s with rx := u.rx, draws := u.draws } := doELo_frame hu
      rw [frame]
      exact .inr ⟨rfl, rfl⟩
    | _ => cases hu; exact .inr ⟨rfl, rfl⟩

/-- In a group that does not reach the end of its schedule, with the host idle, the environment's turns between the phases do
nothing: req_ready is 0 throughout, so the client waits. -/
theorem runGroup_portKept {ps : List Phase} {s t : State} (idle : s.host = []) (noReset : s.rst = false)
    (inside : s.sched ≠ .none) (room : s.step + ps.length ≤ s.sched.steps.length) (h : runGroup ps s = .next t) :
    PortKept s t := by
  induction ps generalizing s with
  | nil => cases h; exact ⟨rfl, rfl, rfl⟩
  | cons p rest ih =>
    cases rest with
    | nil => exact runPhase_portKept h
    | cons q rest =>
      obtain ⟨u, v, phase, env, next⟩ := runGroup_cons_cases h
      obtain ⟨-, rst, -, -, -, -, host, -⟩ := runPhase_fixed phase
      simp only [List.length_cons] at room ih
      have pc : u.sched = s.sched ∧ u.step ≤ s.step + 1 := by
        obtain ⟨sched, step⟩ | ⟨sched, step⟩ := runPhase_pc phase
        · exact ⟨sched, by omega⟩
        · rw [advance_sched, nextPc_mid (by omega)] at sched
          rw [advance_step, nextPc_mid (by omega)] at step
          exact ⟨sched, step.le⟩
      obtain ⟨sched, step⟩ := pc
      have busy : u.reqReady = false := by simp [State.reqReady, sched, inside]
      rw [envTurn_no_host (host.trans idle), clientTurn_waits busy] at env
      cases env
      obtain ⟨raised, -⟩ | ⟨-, next⟩ := next
      · rw [rst, noReset] at raised
        cases raised
      · exact (runPhase_portKept phase).trans
          (ih (host.trans idle) (rst.trans noReset) (sched ▸ inside) (by rw [sched]; omega) next)

/-- A turn inside a schedule, with the host idle, leaves the port alone. -/
theorem scheduleTurn_portKept {s t : State} (idle : s.host = []) (noReset : s.rst = false) (inside : s.sched ≠ .none)
    (h : scheduleTurn s = .next t) : PortKept s t := by
  have length : Sched.init.steps.length = 114 := by decide
  obtain ⟨fetched, group⟩ | ⟨fetched, group⟩ | ⟨-, m, -, phase⟩ := scheduleTurn_cases h
  · obtain ⟨sched, ⟨step, -⟩ | ⟨-, other⟩⟩ := fetchNibble_cases fetched
    · have phases : ((bootGroup (bootWait s.step)).flatMap Micro.phases).length = 11 := rfl
      exact runGroup_portKept idle noReset inside (by rw [sched, length, phases]; omega) group
    · cases other
  · obtain ⟨sched, ⟨-, other⟩ | ⟨step, -⟩⟩ := fetchNibble_cases fetched
    · cases other
    · have phases : (switchGroup.flatMap Micro.phases).length = 12 := rfl
      exact runGroup_portKept idle noReset inside (by rw [sched, length, phases]; omega) group
  · exact runPhase_portKept phase

/-- A turn of the block with the host idle leaves the port alone, unless it accepts. -/
theorem blockTurn_portKept {s t : State} (idle : s.host = []) (notAccepted : s.accepts = false)
    (h : blockTurn s = .next t) : PortKept s t := by
  obtain ⟨-, rfl⟩ | ⟨noReset, inside, turn⟩ | ⟨-, -, accepted, -⟩ | ⟨-, -, -, rfl⟩ := blockTurn_cases h
  · exact ⟨rfl, rfl, rfl⟩
  · exact scheduleTurn_portKept idle noReset inside turn
  · rw [notAccepted] at accepted
    cases accepted
  · exact ⟨rfl, rfl, rfl⟩

/-- A turn of the block with the host idle leaves the client's list alone. -/
theorem blockTurn_client {s t : State} (idle : s.host = []) (h : blockTurn s = .next t) : t.client = s.client := by
  cases accepts : s.accepts with
  | false => exact (blockTurn_portKept idle accepts h).client
  | true =>
    rw [blockTurn_accepting accepts] at h
    obtain ⟨u, accepted, elapsed⟩ := andThen_eq_next h
    cases elapsed
    exact (request_fixed accepted).client

/-! ### Acceptance -/

/-- The formula of R24. -/
theorem reqReady_eq (s : State) :
    s.reqReady = (decide (s.sched = .none) && decide (s.fsm ≠ .fault) && decide (s.rst = false)) := by
  cases hr : s.rst <;> simp [State.reqReady, hr, bne, beq_eq_decide]

/-- A request at a ready block is executed; the client's last emit is over. -/
theorem step_takes_port {s : State} (idle : s.host = []) (legal : configLegal s.cfg = true) (valid : s.reqValid = true)
    (ready : s.reqReady = true) :
    step s = andThen (exec (decodeReq s.reqWord) { s with reqValid := false, emitting := false })
      fun t => .next (elapse t) := by
  have noTurn : clientTurn s = endEmit s := by
    obtain same | ⟨w, rest, -, free, -⟩ := clientTurn_cases s
    · exact same
    · rw [valid] at free
      cases free
  have env : envTurn s = .next { s with emitting := false } := by
    rw [envTurn_no_host idle, noTurn, endEmit, ready]
    simp
  have accepts : ({ s with emitting := false } : State).accepts = true :=
    Bool.and_eq_true_iff.mpr ⟨valid, ready⟩
  rw [step_accepting env legal accepts, acceptTurn]

/-- A request at a block that is not ready stays. -/
theorem step_leaves_port {s t : State} (idle : s.host = []) (busy : s.reqReady = false) (h : step s = .next t) :
    PortKept s t := by
  obtain ⟨u, env, -, turn⟩ := step_cases h
  rw [envTurn_no_host idle, clientTurn_waits busy] at env
  cases env
  exact blockTurn_portKept idle (by simp [State.accepts, busy]) turn

/-- Where a step takes a word from the client's list it was the first, and the step executes it. -/
theorem step_takes_client {s t : State} (idle : s.host = []) (h : step s = .next t) (taken : t.client ≠ s.client) :
    s.reqReady = true ∧ s.reqValid = false ∧ ∃ w, s.client = w :: t.client
      ∧ step s = andThen (exec (decodeReq w) { s with reqWord := w, client := t.client, emitting := true })
        fun u => .next (elapse u) := by
  obtain ⟨u, env, legal, turn⟩ := step_cases h
  have presented : u = clientTurn s := by
    rw [envTurn_no_host idle] at env
    exact (Host.Outcome.next.inj env).symm
  have idle' : u.host = [] := by rw [presented, clientTurn_frame]; exact idle
  have rest_kept : t.client = u.client := blockTurn_client idle' turn
  obtain same | ⟨w, rest, ready, free, list, accepts, turned⟩ := clientTurn_cases s
  · rw [rest_kept, presented, same] at taken
    exact absurd rfl taken
  · have rest_eq : rest = t.client := by rw [rest_kept, presented, turned]
    subst rest_eq
    refine ⟨ready, free, w, list, ?_⟩
    rw [step_accepting env legal (presented ▸ accepts), acceptTurn, presented, turned, ← free]

/-- Settles O8: the formula of req_ready, and what a step with the host idle does with the port and the client's list. -/
theorem requestAcceptance : Obligations.RequestAcceptance :=
  ⟨reqReady_eq, fun _ => step_takes_port,
    fun _ _ idle valid busy h =>
      have kept := step_leaves_port idle busy h
      ⟨kept.reqValid.trans valid, kept.reqWord, kept.client⟩,
    fun _ _ => step_takes_client⟩

end Sys2Proof.Proofs
end

section
/-! Proofs about the schedules (spec/41_nibble_transfer.md R102, R104, R105, 42_controller_fsm.md R117): their steps, what TX
puts on the bus, and where STEP goes. -/

namespace Sys2Proof.Proofs

open Sys2Proof.Machine Sys2Proof.Laws Sys2Proof.Safety

theorem length_steps_tx : (Sched.steps .tx).length = 15 := rfl

theorem length_steps_init : (Sched.steps .init).length = 114 := rfl

/-- R104, R105: both halves of the byte are latched with the transfer's RS, the high one first, and the lines stay at the
second pair. -/
theorem pathAfter_tx (rs l : Bool) (b : Byte) (d : Nibble) :
    (pathAfter rs b l d txSchedule).out = [(rs, hi b), (rs, lo b)]
      ∧ (pathAfter rs b l d txSchedule).rs = rs ∧ (pathAfter rs b l d txSchedule).d = lo b :=
  ⟨rfl, rfl, rfl⟩

/-- R118: no E_HI comes before step 4, where the power-up wait is over. -/
theorem levelAfter_init_early : ∀ k, k ≤ 4 → levelAfter ((Sched.steps .init).take k) = false := by
  decide

/-- R17: TX counts through its steps and ends. -/
theorem nextPc_tx : nextPc .tx 14 = (.none, 0) ∧ ∀ k, k < 14 → nextPc .tx k = (.tx, k + 1) :=
  ⟨nextPc_end (by rw [length_steps_tx]), fun k inside => nextPc_mid (by rw [length_steps_tx]; omega)⟩

/-- R17: INIT counts through its steps and ends. -/
theorem nextPc_init : nextPc .init 113 = (.none, 0) ∧ ∀ k, k < 113 → nextPc .init k = (.init, k + 1) :=
  ⟨nextPc_end (by rw [length_steps_init]), fun k inside => nextPc_mid (by rw [length_steps_init]; omega)⟩

/-- Settles O41: the lists are read off the definitions, and each schedule counts through its steps to its end. -/
protected theorem txSchedule : Obligations.TxSchedule :=
  ⟨rfl, pathAfter_tx, rfl, length_steps_init, rfl, by decide, levelAfter_init_early,
    fun _ => ⟨rfl, rfl, rfl, rfl, rfl, rfl, rfl, rfl, rfl, rfl⟩,
    nextPc_tx.1, nextPc_init.1, nextPc_tx.2, nextPc_init.2⟩

end Sys2Proof.Proofs
end

section
/-! Proofs about the runs from reset (spec/10_state.md R25, R33-R35): the values of reset, the invariants in every state in
which rst falls, and R34 along every run. -/

namespace Sys2Proof.Proofs

open Sys2Proof.Machine Sys2Proof.Laws Sys2Proof.Safety

/-! ### The state in which rst falls -/

/-- State.reset is a state in which rst falls. -/
theorem atReset_reset : AtReset State.reset :=
  ⟨rfl, rfl, rfl, rfl, rfl, rfl, rfl, rfl, Nat.le_refl _, rfl, rfl⟩

/-- Settles O15: each value is the one State.reset holds. -/
theorem resetState : Obligations.ResetState :=
  ⟨atReset_reset, rfl, rfl, rfl, rfl, rfl, rfl, rfl, rfl, rfl, rfl, rfl, rfl, rfl, rfl, ddAt_unknown, cgAt_unknown, rfl⟩

section

variable {s : State} (reset : AtReset s)

include reset

theorem blockInv_atReset : BlockInv s where
  stepInRange := .inl ⟨reset.sched, reset.step⟩
  fsm := (fsmFits_none_iff reset.sched).mpr (.inl reset.fsm)
  oe := (oeFits_none_iff reset.sched).mpr ⟨fun _ => reset.oe, fun h => nomatch reset.fsm.symm.trans h⟩
  lineE driven := nomatch reset.oe.symm.trans driven
  waiting h := by rw [reset.waitFrom] at h; cases h
  noWait _ := reset.waitRem
  fcode := by simp [reset.fsm, reset.fcode]
  undriven _ := reset.rx

theorem timeInv_atReset : TimeInv s := by
  refine timeInv_of_idle reset.waitFrom ?_ ?_ ?_ <;> rw [reset.trace]
  · exact .nil
  · exact List.forall_mem_nil _
  · exact List.forall_mem_nil _

theorem streamInv_atReset : StreamInv s where
  latched := by rw [reset.latched, reset.trace]; rfl
  lines driven := nomatch reset.oe.symm.trans driven

theorem scheduleInv_atReset : ScheduleInv s := .inl reset.sched

theorem initFits_atReset : initFits s := fun inside => nomatch reset.sched.symm.trans inside

theorem memWf_atReset : s.rx.mem.wf = true := by rw [reset.rx]; exact wf_unknown

theorem receiverInv_atReset (port : s.reqValid = true → keepsFraming s.reqWord = true)
    (client : ∀ w ∈ s.client, keepsFraming w = true) (host : ∀ m ∈ s.host, moveKeepsFraming m = true) :
    ReceiverInv s where
  framing := by
    simp only [framingFits, reset.sched]
    exact fun h => nomatch reset.fsm.symm.trans h
  ready h := by simp [reset.sched, reset.fsm] at h
  powered := reset.powered
  port := port
  client := client
  host := host
  transfer inside := nomatch reset.sched.symm.trans inside
  settle inside := by simp [reset.sched] at inside

end

/-- Settles O47: where no schedule runs, the lines are undriven and the trace is empty, each invariant asks for little more
than AtReset states. -/
theorem invariantsAtReset : Obligations.InvariantsAtReset :=
  ⟨fun _ reset => ⟨blockInv_atReset reset, timeInv_atReset reset, streamInv_atReset reset, scheduleInv_atReset reset,
      initFits_atReset reset, memWf_atReset reset, receiverInv_atReset reset⟩,
    atReset_reset,
    receiverInv_atReset atReset_reset (fun h => nomatch h) (List.forall_mem_nil _) (List.forall_mem_nil _)⟩

/-! ### Runs -/

/-- Every run keeps the block's invariant. -/
theorem blockInv_reachable {s : State} (h : Reachable s) : BlockInv s := by
  induction h with
  | start reset => exact blockInv_atReset reset
  | next _ step ih => exact blockInvKept _ _ ih step

/-- R34 is a part of the block's invariant: outside a schedule, in INIT and in TX. -/
theorem r34_of_blockInv {s : State} (inv : BlockInv s) : R34 s := by
  cases hs : s.sched with
  | none =>
    have fsm := (fsmFits_none_iff hs).mp inv.fsm
    have oe := (oeFits_none_iff hs).mp inv.oe
    have low : s.oe = true → s.lineE = false := lineE_of_outside inv hs
    have driven : s.fsm = .boot4 ∨ s.fsm = .ready → s.oe = true := fun h => by
      obtain h | h := h
      · simp [h] at fsm
      · exact oe.2 h
    exact ⟨fun h => absurd hs h, fun _ => hs, fun _ => by cases ho : s.oe <;> simp [ho, low], driven,
      fun h => (nomatch hs.symm.trans h), fun h => (nomatch hs.symm.trans h)⟩
  | init =>
    have fsm := (fsmFits_iff_scheduleFsm (by simp [hs])).mp inv.fsm
    have oe := (oeFits_iff_scheduleOe (by simp [hs])).mp inv.oe
    have booting : s.fsm = .boot8 ∧ s.step ≤ 25 ∨ s.fsm = .boot4 ∧ 25 < s.step := by
      by_cases early : s.step ≤ 25
      · exact .inl ⟨by simp [fsm, hs, scheduleFsm, early], early⟩
      · exact .inr ⟨by simp [fsm, hs, scheduleFsm, early], Nat.lt_of_not_le early⟩
    have driven : 25 < s.step → s.oe = true := fun late => by
      rw [oe, hs]
      exact decide_eq_true (by omega)
    obtain ⟨f, -⟩ | ⟨f, late⟩ := booting
    · exact ⟨fun _ => .inl f, fun h => (nomatch f.symm.trans h), fun h => (nomatch hs.symm.trans h),
        fun h => by simp [f] at h, fun _ => .inl f, fun h => (nomatch hs.symm.trans h)⟩
    · exact ⟨fun _ => .inr (.inl f), fun h => (nomatch f.symm.trans h), fun h => (nomatch hs.symm.trans h),
        fun _ => driven late, fun _ => .inr f, fun h => (nomatch hs.symm.trans h)⟩
  | tx =>
    have f : s.fsm = .ready := by rw [(fsmFits_iff_scheduleFsm (by simp [hs])).mp inv.fsm, hs]; rfl
    have driven : s.oe = true := by rw [(oeFits_iff_scheduleOe (by simp [hs])).mp inv.oe, hs]; rfl
    exact ⟨fun _ => .inr (.inr f), fun h => (nomatch f.symm.trans h), fun h => (nomatch hs.symm.trans h),
      fun _ => driven, fun h => (nomatch hs.symm.trans h), fun _ => f⟩

/-- Settles O46: R34 follows from the block's invariant, which every run keeps. -/
theorem runsKeepR34 : Obligations.RunsKeepR34 := fun _ h => r34_of_blockInv (blockInv_reachable h)

end Sys2Proof.Proofs
end

section
/-! Proofs about the latched stream (spec/20_memory.md R47, 40_pin_timing.md R86): what a falling edge of E appends, and that
every step keeps the stream equal to what the pin trace shows. -/

namespace Sys2Proof.Proofs

open Sys2Proof.Machine Sys2Proof.Laws Sys2Proof.Safety

/-! ### The falling edge -/

/-- A micro-operation that is no falling edge leaves the latched stream alone. -/
theorem microEffect_latched {m : Micro} {s t : State} (h : microEffect m s = .next t) (ne : m ≠ .eLo) :
    t.latched = s.latched := by
  cases m with
  | eLo => exact absurd rfl ne
  | _ => cases h; rfl

/-- Settles O21: a falling edge is `dropE`, and the receiver's latch on top of it only while OE = 1. -/
theorem fallingEdgeLatches : Obligations.FallingEdgeLatches :=
  ⟨fun _ _ h => ⟨doELo_frame h, fun released => by rw [doELo_undriven h released, dropE_rx]⟩,
    fun _ _ _ ne h => ⟨microEffect_latched h ne, microEffect_rx h ne⟩⟩

/-! ### Reading the trace one event further -/

theorem replay_concat (t : List (Nat × Event)) (e : Nat × Event) : replay (t ++ [e]) = (replay t).event e := by
  simp only [replay, List.foldl_concat]

@[simp] theorem replay_state (t : List (Nat × Event)) (τ : Nat) (f : Fsm) : replay (t ++ [(τ, .state f)]) = replay t :=
  replay_concat t _

@[simp] theorem replay_wait (t : List (Nat × Event)) (τ a d : Nat) : replay (t ++ [(τ, .wait a d)]) = replay t :=
  replay_concat t _

@[simp] theorem replay_rise (t : List (Nat × Event)) (τ : Nat) : replay (t ++ [(τ, .lineE true)]) = replay t :=
  replay_concat t _

/-! ### The parts of a step keep the stream -/

/-- R88: CFG is over before any schedule's first falling edge, so that E only falls while the lines are driven. -/
theorem driven_at_eLo {s : State} (inv : BlockInv s) (at_pc : s.sched.steps[s.step]? = some .eLo) : s.oe = true := by
  have inside : s.sched ≠ .none := fun hs => by rw [hs] at at_pc; cases at_pc
  rw [(oeFits_iff_scheduleOe inside).mp inv.oe]
  cases hs : s.sched with
  | none => exact absurd hs inside
  | tx => rfl
  | init =>
    have started : s.step ≠ 0 := fun hk => by rw [hs, hk] at at_pc; cases at_pc
    exact decide_eq_true (Nat.one_le_iff_ne_zero.mpr started)

/-- Where reading the trace gives what it gave, and stream, OE, RS and D stay, so does the invariant. -/
theorem streamInv_quiet {s t : State} (inv : StreamInv s) (trace : replay t.trace = replay s.trace)
    (latched : t.latched = s.latched) (oe : t.oe = s.oe) (lineRs : t.lineRs = s.lineRs) (lineD : t.lineD = s.lineD) :
    StreamInv t where
  latched := by rw [latched, trace]; exact inv.latched
  lines driven := by rw [lineRs, lineD, trace]; exact inv.lines (oe.symm.trans driven)

theorem streamInv_elapse {s : State} (inv : StreamInv s) : StreamInv (elapse s) :=
  streamInv_quiet inv rfl rfl rfl rfl rfl

theorem streamInv_advance {s : State} (inv : StreamInv s) : StreamInv (advance s) :=
  streamInv_quiet inv rfl rfl rfl rfl rfl

theorem streamInv_waitBegin {s : State} (inv : StreamInv s) (t : Nat) : StreamInv (waitBegin t s) :=
  streamInv_quiet inv rfl rfl rfl rfl rfl

theorem streamInv_waitEnd {s : State} (inv : StreamInv s) (t : Nat) : StreamInv (waitEnd t s) :=
  streamInv_quiet inv (replay_wait _ _ _ _) rfl rfl rfl rfl

/-- rst releases the lines; stream and trace stay (R200). -/
theorem streamInv_holdReset {s : State} (inv : StreamInv s) : StreamInv (holdReset s) :=
  ⟨inv.latched, fun driven => nomatch driven⟩

/-- The environment touches neither the lines nor the trace. -/
theorem streamInv_envTurn {s t : State} (inv : StreamInv s) (h : envTurn s = .next t) : StreamInv t := by
  rw [(envTurn_frame h).1]
  exact streamInv_quiet inv rfl rfl rfl rfl rfl

/-- One more event: stream and driven lines must be what reading it makes of them. -/
theorem streamInv_event {s t : State} {e : Nat × Event} (trace : t.trace = s.trace ++ [e])
    (latched : t.latched = ((replay s.trace).event e).latched)
    (lines : t.oe = true →
      t.lineRs = ((replay s.trace).event e).rs ∧ t.lineD = ((replay s.trace).event e).d) : StreamInv t where
  latched := by rw [trace, replay_concat]; exact latched
  lines := by rw [trace, replay_concat]; exact lines

/-- R47: while the lines are driven, a falling edge appends to the stream the pair the trace shows on RS and D. -/
theorem streamInv_doELo {s u : State} (inv : StreamInv s) (driven : s.oe = true) (h : doELo s = .next u) :
    StreamInv u := by
  obtain ⟨rs, d⟩ := inv.lines driven
  have latched : (dropE s).latched = (replay s.trace).latched ++ [((replay s.trace).rs, (replay s.trace).d)] := by
    rw [dropE_latched, if_pos driven, inv.latched, rs, d]
  rw [doELo_frame h]
  exact streamInv_event (dropE_trace s) latched fun _ => ⟨rs, d⟩

/-- A micro-operation changes RS, D and the stream as reading its event does; E falls only while the lines are driven. -/
theorem streamInv_microEffect {m : Micro} {s u : State} (inv : StreamInv s) (driven : m = .eLo → s.oe = true)
    (h : microEffect m s = .next u) : StreamInv u := by
  cases m with
  | eLo => exact streamInv_doELo inv (driven rfl) h
  | cfg => cases h; exact streamInv_event (doCfg_trace s) inv.latched fun _ => ⟨rfl, rfl⟩
  | setRs v => cases h; exact streamInv_event (doSetRs_trace s _) inv.latched fun oe => ⟨rfl, (inv.lines oe).2⟩
  | setD n => cases h; exact streamInv_event (doSetD_trace s _) inv.latched fun oe => ⟨(inv.lines oe).1, rfl⟩
  | eHi => cases h; exact streamInv_quiet inv (replay_rise _ _) rfl rfl rfl rfl
  | wait w => cases h; exact streamInv_waitEnd (streamInv_waitBegin inv _) _
  | load rs b => cases h; exact streamInv_quiet inv rfl rfl rfl rfl rfl
  | setFsm f => cases h; exact streamInv_quiet inv (replay_state _ _ _) rfl rfl rfl rfl

/-- A due phase. -/
theorem streamInv_duePhase {m : Micro} {s t : State} (block : BlockInv s) (inv : StreamInv s)
    (at_pc : s.sched.steps[s.step]? = some m) (h : runPhase (m.duePhase s) s = .next t) : StreamInv t := by
  obtain ⟨w, rfl, -, rfl⟩ | ⟨w, rfl, -, rfl⟩ | ⟨-, u, hu, rfl⟩ := duePhase_cases h
  · exact streamInv_waitBegin inv _
  · exact streamInv_advance (streamInv_waitEnd inv _)
  · have driven : m = .eLo → s.oe = true := fun edge => driven_at_eLo block (edge ▸ at_pc)
    exact streamInv_elapse (streamInv_advance (streamInv_microEffect inv driven hu))

/-- An accepted request moves no line: its one event, if it has one, is a change of FSM (R100, R101, R115, R180). -/
theorem streamInv_request {w : ReqWord} {s t : State} (inv : StreamInv s)
    (h : exec (decodeReq w) { s with reqValid := false } = .next t) : StreamInv t := by
  obtain ⟨-, -, e⟩ | ⟨b, -, -, e⟩ | ⟨b, -, -, e⟩ | ⟨c, -, e⟩ := request_cases w { s with reqValid := false }
  · cases e.symm.trans h
    exact streamInv_quiet inv (replay_state _ _ _) rfl rfl rfl rfl
  · cases e.symm.trans h
    exact streamInv_quiet inv rfl rfl rfl rfl rfl
  · cases e.symm.trans h
    exact streamInv_quiet inv rfl rfl rfl rfl rfl
  · cases e.symm.trans h
    exact streamInv_quiet inv (replay_state _ _ _) rfl rfl rfl rfl

/-! ### Invariants that lean on the block's -/

/-- What every part of a step keeps where the block's invariant holds, the step keeps there. -/
theorem step_keeps_beside_blockInv {P : State → Prop}
    (env : ∀ s t, P s → envTurn s = .next t → P t) (reset : ∀ s, P s → P (holdReset s))
    (due : ∀ m s t, BlockInv s → P s → s.sched.steps[s.step]? = some m → runPhase (m.duePhase s) s = .next t → P t)
    (request : ∀ s t, BlockInv s → P s → s.accepts = true →
      exec (decodeReq s.reqWord) { s with reqValid := false } = .next t → P (elapse t))
    (time : ∀ s, BlockInv s → P s → s.sched = .none → P (elapse s))
    {s t : State} (block : BlockInv s) (inv : P s) (h : step s = .next t) : P t :=
  (step_keeps_due (P := fun s => BlockInv s ∧ P s)
    (fun s t ⟨block, inv⟩ h => ⟨blockInv_envTurn block h, env s t inv h⟩)
    (fun s ⟨_, inv⟩ => ⟨blockInv_holdReset s, reset s inv⟩)
    (fun m s t ⟨block, inv⟩ at_pc h => ⟨blockInv_duePhase block at_pc h, due m s t block inv at_pc h⟩)
    (fun _ ⟨block, _⟩ => waitFrom_of_fetchNibble block)
    (fun s t ⟨block, inv⟩ accepts h =>
      ⟨blockInv_elapse (blockInv_request block accepts h), request s t block inv accepts h⟩)
    (fun s ⟨block, inv⟩ outside => ⟨blockInv_elapse block, time s block inv outside⟩) ⟨block, inv⟩ h).2

/-- Settles O51, beside the block's invariant, by which E falls only while the lines are driven. -/
theorem streamInvKept : Obligations.StreamInvKept := fun _ _ =>
  step_keeps_beside_blockInv (fun _ _ => streamInv_envTurn) (fun _ => streamInv_holdReset)
    (fun _ _ _ => streamInv_duePhase) (fun _ _ _ inv _ h => streamInv_elapse (streamInv_request inv h))
    (fun _ _ inv _ => streamInv_elapse inv)

end Sys2Proof.Proofs
end

section
/-! Proofs about the encodings (spec/30_encoding.md R65-R73): encoder and decoder undo each other. -/

namespace Sys2Proof.Proofs

open Sys2Proof.Machine Sys2Proof.Laws

/-! ### Words as leading bits and the operand after them -/

/-- A word that starts with the bits of `top` is `top` before the word's own low bits. -/
theorem append_extractLsb'_of_bits {n m : Nat} {top : BitVec n} {w : BitVec (n + m)}
    (h : ∀ j < n, top.getLsbD j = w.getLsbD (m + j)) : top ++ w.extractLsb' 0 m = w := by
  apply BitVec.eq_of_getLsbD_eq
  intro i inside
  rw [BitVec.getLsbD_append]
  split
  · next low => simp [low]
  · next high => rw [h (i - m) (by omega), Nat.add_sub_cancel' (Nat.le_of_not_lt high)]

/-- R68: a bus value is its RS bit before its byte. -/
theorem busWord_fields (w : BitVec 9) : busWord (w.getLsbD 8) (w.extractLsb' 0 8) = w :=
  append_extractLsb'_of_bits (top := BitVec.ofBool (w.getLsbD 8)) fun j one => by
    obtain rfl : j = 0 := by omega
    simp

/-! ### What the decoder reads: an equation per row with an operand -/

theorem decodeReq_reservedReq {x : BitVec 9} (h : x ≠ 0) : decodeReq (1#1 ++ x) = .reservedReq x := by
  simp only [decodeReq, BitVec.getLsbD_append, BitVec.extractLsb'_append_eq_right]
  simpa using h

theorem decodeReq_data (b : Byte) : decodeReq (0b01#2 ++ b) = .data b := by
  simp only [decodeReq, BitVec.getLsbD_append, BitVec.extractLsb'_append_eq_right]
  simp

theorem decodeReq_cmd (b : Byte) : decodeReq (0b00#2 ++ b) = .cmd b := by
  simp only [decodeReq, BitVec.getLsbD_append, BitVec.extractLsb'_append_eq_right]
  simp

theorem decodeBus_instruction (b : Byte) : decodeBus (busWord false b) = decodeByte b := by
  simp only [decodeBus, busWord, BitVec.getLsbD_append, BitVec.extractLsb'_append_eq_right]
  simp

theorem decodeByte_setDdramAddr (a : BitVec 7) : decodeByte (1#1 ++ a) = .setDdramAddr a := by
  simp only [decodeByte, BitVec.getLsbD_append, BitVec.extractLsb'_append_eq_right]
  simp

theorem decodeByte_setCgramAddr (a : BitVec 6) : decodeByte (0b01#2 ++ a) = .setCgramAddr a := by
  simp only [decodeByte, BitVec.getLsbD_append, BitVec.extractLsb'_append_eq_right]
  simp

theorem decodeByte_functionSetOther {x : BitVec 5} (h : x ≠ 0b01000) :
    decodeByte (0b001#3 ++ x) = .functionSetOther x := by
  have notExact : 0b001#3 ++ x ≠ 0x28#8 := fun e => h ((BitVec.append_right_inj _ (t₂ := 0b01000#5)).mp e)
  simp only [decodeByte, BitVec.getLsbD_append, BitVec.extractLsb'_append_eq_right]
  simpa using notExact

/-- The low two bits of a shift's operand tell the four exact rows, whose operands have none set, from the others (R70). -/
theorem decodeByte_shiftOther {x : BitVec 4} (h : x.extractLsb' 0 2 ≠ 0) : decodeByte (0b0001#4 ++ x) = .shiftOther x := by
  have notExact (y : BitVec 4) (hy : y.extractLsb' 0 2 = 0) : 0b0001#4 ++ x ≠ 0b0001#4 ++ y := fun e =>
    h ((BitVec.append_right_inj _).mp e ▸ hy)
  have left : 0b0001#4 ++ x ≠ 0x10#8 := notExact 0x0 (by decide)
  have right : 0b0001#4 ++ x ≠ 0x14#8 := notExact 0x4 (by decide)
  have displayLeft : 0b0001#4 ++ x ≠ 0x18#8 := notExact 0x8 (by decide)
  have displayRight : 0b0001#4 ++ x ≠ 0x1C#8 := notExact 0xC (by decide)
  simp only [decodeByte, BitVec.getLsbD_append, BitVec.extractLsb'_append_eq_right]
  simp [left, right, displayLeft, displayRight]

theorem decodeByte_entryModeOther {x : BitVec 2} (h : x ≠ 0b10) : decodeByte (0b000001#6 ++ x) = .entryModeOther x := by
  have notExact : 0b000001#6 ++ x ≠ 0x06#8 := fun e => h ((BitVec.append_right_inj _ (t₂ := 0b10#2)).mp e)
  simp only [decodeByte, BitVec.getLsbD_append, BitVec.extractLsb'_append_eq_right]
  simpa using notExact

/-! ### Decoding after encoding -/

/-- The word of an instruction the receiver executes is the bus value of its RS and byte (R68). -/
theorem encode_of_isBus {i : Instr} (bus : isBus i = true) : encode i = .bus9 (busWord (busOf i).1 (busOf i).2) := by
  have form : ∃ w, encode i = .bus9 w := by
    cases i with
    | init | reservedReq | cmd | data | bootFuncset8bit | switch4bit => cases bus
    | _ => exact ⟨_, rfl⟩
  obtain ⟨w, hw⟩ := form
  rw [busOf, hw, busWord_fields]

/-- An instruction with RS = 0 is decoded as its byte is. -/
theorem decode_encode_of_byte {i j : Instr} {b : Byte} (bus : isBus i = true) (byte : busOf i = (false, b))
    (decoded : decodeByte b = j) : decode (encode i) = .ok j := by
  rw [encode_of_isBus bus, byte, decode, decodeBus_instruction, decoded]

theorem decode_encode_of_wellFormed {i : Instr} (wf : i.wellFormed = true) : decode (encode i) = .ok i := by
  cases i with
  | reservedReq x => exact congrArg Except.ok (decodeReq_reservedReq (by simpa [Instr.wellFormed] using wf))
  | cmd b => exact congrArg Except.ok (decodeReq_cmd b)
  | data b => exact congrArg Except.ok (decodeReq_data b)
  | functionSetOther x =>
    exact decode_encode_of_byte rfl (busOf_functionSetOther x)
      (decodeByte_functionSetOther (by simpa [Instr.wellFormed] using wf))
  | shiftOther x =>
    exact decode_encode_of_byte rfl (busOf_shiftOther x) (decodeByte_shiftOther (by simpa [Instr.wellFormed] using wf))
  | entryModeOther x =>
    exact decode_encode_of_byte rfl (busOf_entryModeOther x)
      (decodeByte_entryModeOther (by simpa [Instr.wellFormed] using wf))
  | setCgramAddr a => exact decode_encode_of_byte rfl (busOf_setCgramAddr a) (decodeByte_setCgramAddr a)
  | setDdramAddr a => exact decode_encode_of_byte rfl (busOf_setDdramAddr a) (decodeByte_setDdramAddr a)
  | writeData b => exact congrArg Except.ok (decodeBus_write b)
  | displayControl d c k => cases d <;> cases c <;> cases k <;> rfl
  | instr02Or03 x => cases x <;> rfl
  | init | functionSet | cursorShiftLeft | cursorShiftRight | displayShiftLeft | displayShiftRight | entryModeSet
  | clearDisplay | instr00 | bootFuncset8bit | switch4bit => rfl

/-- Settles O3: the decoder's equation for each row reads that row's word. -/
theorem decodeEncode : Obligations.DecodeEncode := fun _ => decode_encode_of_wellFormed

/-! ### Encoding after decoding -/

/-- The word of an ill-formed instruction is an exact row's, and decodes to that row's instruction (R67, R70, R73). -/
theorem wellFormed_of_decode_encode {i : Instr} (h : decode (encode i) = .ok i) : i.wellFormed = true := by
  by_contra ill
  cases i with
  | reservedReq x =>
    obtain rfl : x = 0 := by simpa [Instr.wellFormed] using ill
    cases h
  | functionSetOther x =>
    obtain rfl : x = 0b01000 := by simpa [Instr.wellFormed] using ill
    cases h
  | shiftOther x =>
    revert x; decide
  | entryModeOther x =>
    obtain rfl : x = 0b10 := by simpa [Instr.wellFormed] using ill
    cases h
  | init | cmd | data | functionSet | cursorShiftLeft | cursorShiftRight | displayShiftLeft | displayShiftRight
  | displayControl | entryModeSet | instr02Or03 | clearDisplay | instr00 | setCgramAddr | setDdramAddr | writeData
  | bootFuncset8bit | switch4bit => exact ill rfl

/-- R66, R67: K, and where K = 0 also RS, stand before the operand of a request word. -/
theorem encode_decodeReq (w : ReqWord) : encode (decodeReq w) = .req10 w := by
  have reserved (k : w.getLsbD 9 = true) : 1#1 ++ w.extractLsb' 0 9 = w :=
    append_extractLsb'_of_bits (top := 1#1) fun j one => by
      obtain rfl : j = 0 := by omega
      exact k.symm
  have transfer (top : BitVec 2) (rs : top.getLsbD 0 = w.getLsbD 8) (k : top.getLsbD 1 = w.getLsbD 9) :
      top ++ w.extractLsb' 0 8 = w :=
    append_extractLsb'_of_bits fun j two => by
      obtain rfl | rfl : j = 0 ∨ j = 1 := by omega
      · exact rs
      · exact k
  unfold decodeReq
  split
  · next k =>
    split
    · next zero => exact congrArg Code.req10 (by rw [← reserved k, zero]; rfl)
    · exact congrArg Code.req10 (reserved k)
  · next k =>
    have k := Bool.eq_false_of_not_eq_true k
    split
    · next rs => exact congrArg Code.req10 (transfer 0b01 rs.symm k.symm)
    · next rs => exact congrArg Code.req10 (transfer 0b00 (Bool.eq_false_of_not_eq_true rs).symm k.symm)

theorem encode_decodeBus (w : BitVec 9) : encode (decodeBus w) = .bus9 w := by
  rw [← busWord_fields w, encode_of_isBus (isBus_decodeBus _), busOf_decodeBus]

/-- R69: the values that decode. -/
theorem decodeNib_eq_ok_iff (w : BitVec 5) (i : Instr) : decodeNib w = .ok i ↔
    (w = 0b00011 ∧ i = .bootFuncset8bit) ∨ (w = 0b00010 ∧ i = .switch4bit) := by
  unfold decodeNib
  split
  · next boot => simp [boot, eq_comm]
  · next notBoot =>
    split
    · next switch => simp [switch, eq_comm]
    · next notSwitch => simpa using ⟨fun e => absurd e notBoot, fun e => absurd e notSwitch⟩

theorem encode_of_decode {c : Code} {i : Instr} (h : decode c = .ok i) : encode i = c := by
  cases c with
  | req10 w => cases h; exact encode_decodeReq w
  | bus9 w => cases h; exact encode_decodeBus w
  | nib5 w =>
    obtain ⟨rfl, rfl⟩ | ⟨rfl, rfl⟩ := (decodeNib_eq_ok_iff w i).mp h
    · rfl
    · rfl

/-- Settles O4: the decoder takes no word apart that the encoder does not put together again, and an ill-formed
instruction's word decodes to another. -/
theorem encodeDecode : Obligations.EncodeDecode := fun c i h => by
  have word : encode i = c := encode_of_decode h
  exact ⟨word, wellFormed_of_decode_encode (word ▸ h)⟩

end Sys2Proof.Proofs
end

section
/-! Proofs about the opcode table (spec/30_encoding.md R67, R69, R70, R73): the decoder takes the matching row that fixes the
most bits. -/

namespace Sys2Proof.Proofs

open Sys2Proof.Machine Sys2Proof.Safety

/-! ### A word as a number of its form's width -/

/-- How many bits a form has (R65). -/
def formWidth : Form → Nat
  | .req10 => 10
  | .bus9 => 9
  | .nib5 => 5

theorem codeNumber_lt (c : Code) : codeNumber c < 2 ^ formWidth (formOf c) := by
  cases c with
  | req10 w => exact w.isLt
  | bus9 w => exact w.isLt
  | nib5 w => exact w.isLt

/-- A word is told by its form and its number. -/
theorem code_codeNumber (c : Code) : (formOf c).code (codeNumber c) = .ok c := by
  cases c with
  | req10 w => simp [formOf, codeNumber, Form.code, w.isLt]
  | bus9 w => simp [formOf, codeNumber, Form.code, w.isLt]
  | nib5 w => simp [formOf, codeNumber, Form.code, w.isLt]

/-! ### An instruction's word lies in its own row -/

/-- A row whose fixed bits are the leading ones covers them with every operand after them. -/
theorem covers_append {n m : Nat} (f : Form) (top : BitVec n) (x : BitVec m) :
    TableRow.covers ⟨f, top.toNat <<< m, (2 ^ n - 1) <<< m⟩ (top ++ x).toNat = true := by
  have operand : x.toNat &&& (2 ^ n - 1) <<< m = 0 := by
    apply Nat.eq_of_testBit_eq
    intro i
    by_cases low : i < m
    · simp [Nat.testBit_shiftLeft, Nat.not_le.mpr low]
    · simp [BitVec.testBit_toNat, BitVec.getLsbD_of_ge x i (Nat.le_of_not_lt low)]
  have fixed : top.toNat <<< m &&& (2 ^ n - 1) <<< m = top.toNat <<< m := by
    rw [← Nat.shiftLeft_and_distrib, Nat.and_two_pow_sub_one_of_lt_two_pow top.isLt]
  rw [TableRow.covers, BitVec.toNat_append, Nat.and_or_distrib_right, fixed, operand]
  simp

theorem rowOf_covers_encode (i : Instr) : (rowOf i).covers (codeNumber (encode i)) = true := by
  cases i with
  | reservedReq x => exact covers_append .req10 1#1 x
  | cmd b => exact covers_append .req10 0b00#2 b
  | data b => exact covers_append .req10 0b01#2 b
  | functionSetOther x => exact covers_append .bus9 0b0001#4 x
  | shiftOther x => exact covers_append .bus9 0b00001#5 x
  | displayControl d c k => cases d <;> cases c <;> cases k <;> rfl
  | entryModeOther x => exact covers_append .bus9 0b0000001#7 x
  | instr02Or03 x => exact covers_append .bus9 0b00000001#8 (BitVec.ofBool x)
  | setCgramAddr a => exact covers_append .bus9 0b001#3 a
  | setDdramAddr a => exact covers_append .bus9 0b01#2 a
  | writeData b => exact covers_append .bus9 1#1 b
  | init | functionSet | cursorShiftLeft | cursorShiftRight | displayShiftLeft | displayShiftRight | entryModeSet
  | clearDisplay | instr00 | bootFuncset8bit | switch4bit => rfl

theorem rowOf_mem_tableRows (i : Instr) : rowOf i ∈ tableRows := by
  cases i <;> simp [tableRows, rowOf]

theorem rowOf_form (i : Instr) : (rowOf i).form = formOf (encode i) := by
  cases i <;> rfl

/-! ### Rows that share a word -/

/-- A row that leaves no bit open. -/
abbrev IsExact (q : TableRow) : Prop := q.mask = 2 ^ formWidth q.form - 1

/-- Two rows that cover one number agree on the bits both fix. -/
theorem agree_of_covers {q r : TableRow} {n : Nat} (hq : q.covers n = true) (hr : r.covers n = true) :
    q.value &&& r.mask = r.value &&& q.mask := by
  rw [← beq_iff_eq.mp hq, ← beq_iff_eq.mp hr, Nat.and_right_comm]

/-- The table's overlaps: of two rows of a form that agree, the second fixes fewer bits unless it is exact. -/
theorem fewer_or_exact_of_agree : ∀ r ∈ tableRows, ∀ q ∈ tableRows, q.form = r.form →
    q.value &&& r.mask = r.value &&& q.mask → q = r ∨ ones q.mask < ones r.mask ∨ IsExact q := by
  decide

theorem value_of_exact_covers {q : TableRow} {c : Code} (exact : IsExact q) (form : q.form = formOf c)
    (covers : q.covers (codeNumber c) = true) : q.value = codeNumber c := by
  rw [← beq_iff_eq.mp covers, exact, form, Nat.and_two_pow_sub_one_of_lt_two_pow (codeNumber_lt c)]

/-- The decoder takes every exact row at that row's one word. -/
theorem exactRow_decodes : ∀ q ∈ tableRows, IsExact q →
    ((q.form.code q.value).bind decode).map rowOf = .ok q := by
  decide

/-- R73 for the three forms: a rival row is less specific, or it is exact and then the decoder took it. -/
theorem picks_of_decode {c : Code} {i : Instr} (h : decode c = .ok i) : picks (rowOf i) (formOf c) (codeNumber c) := by
  have word : encode i = c := encode_of_decode h
  have form : (rowOf i).form = formOf c := word ▸ rowOf_form i
  have own : (rowOf i).covers (codeNumber c) = true := word ▸ rowOf_covers_encode i
  refine ⟨form, own, fun q listed sameForm covers => ?_⟩
  obtain same | fewer | exact := fewer_or_exact_of_agree (rowOf i) (rowOf_mem_tableRows i) q listed
    (sameForm.trans form.symm) (agree_of_covers covers own)
  · exact .inl same
  · exact .inr fewer
  · left
    have row : ((q.form.code q.value).bind decode).map rowOf = .ok q := exactRow_decodes q listed exact
    rw [sameForm, value_of_exact_covers exact sameForm covers, code_codeNumber, Except.bind, h] at row
    exact (Except.ok.inj row).symm

/-- Settles O2: every request word and every bus value decodes, and what decodes was picked by R73. -/
theorem decodePriority : Obligations.DecodePriority :=
  ⟨fun w => picks_of_decode (c := .req10 w) rfl, fun w => picks_of_decode (c := .bus9 w) rfl⟩

end Sys2Proof.Proofs
end

section
/-! Proofs about words written out (spec/30_encoding.md R67, R69, R70, R84) and about the single nibbles, which the block
emits at four steps of INIT (R69, 42_controller_fsm.md R117, R119, R120). -/

namespace Sys2Proof.Proofs

open Sys2Proof.Machine Sys2Proof.Safety

/-- Settles O1, by assembling the text. -/
theorem encodingExamples : Obligations.EncodingExamples := by
  unfold Obligations.EncodingExamples
  decide

/-- Settles O6, by evaluating the decoder at each word. -/
theorem decodedWords : Obligations.DecodedWords :=
  ⟨rfl, rfl, rfl, rfl, rfl, rfl, rfl, rfl, rfl, rfl, rfl, rfl, rfl, rfl, rfl, rfl⟩

/-- R117: the steps of INIT at which a single nibble's group begins. -/
theorem fetchNibble_eq (s : State) : fetchNibble s =
    if s.sched = .init ∧ (s.step = 4 ∨ s.step = 11 ∨ s.step = 18) then some .bootFuncset8bit
    else if s.sched = .init ∧ s.step = 25 then some .switch4bit
    else none := by
  unfold fetchNibble nibbleAt
  by_cases init : s.sched = .init
  · by_cases boot : s.step = 4 ∨ s.step = 11 ∨ s.step = 18
    · rw [if_pos init, if_pos boot, if_pos ⟨init, boot⟩]
      rfl
    · by_cases switch : s.step = 25
      · rw [if_pos init, if_neg boot, if_pos switch, if_neg fun h => boot h.2, if_pos ⟨init, switch⟩]
        rfl
      · simp [boot, switch]
  · simp [init]

/-- R119: a bootstrap group latches the nibble 0x3 with RS as it stands. -/
theorem pathAfter_bootGroup (rs l : Bool) (b : Byte) (d : Nibble) (w : WaitOperand) :
    (pathAfter rs b l d (bootGroup w)).out = [(l, 0x3)] := rfl

/-- R120: the switch's group latches the nibble 0x2 with RS as it stands. -/
theorem pathAfter_switchGroup (rs l : Bool) (b : Byte) (d : Nibble) :
    (pathAfter rs b l d switchGroup).out = [(l, 0x2)] := rfl

/-- Settles O5: the decoder's two values, the steps they are fetched at, and their groups' latches with RS = 0. -/
theorem singleNibbles : Obligations.SingleNibbles :=
  ⟨decodeNib_eq_ok_iff, fetchNibble_eq, fun rs b => pathAfter_bootGroup rs false b,
    fun rs b => pathAfter_switchGroup rs false b⟩

end Sys2Proof.Proofs
end

section
/-! Proofs about the requests that are turned away (spec/30_encoding.md R75, 42_controller_fsm.md R115, R130,
60_exceptions.md R180, R181). -/

namespace Sys2Proof.Proofs

open Sys2Proof.Machine

/-! ### Where a request enters FAULT -/

theorem exec_reservedReq (w : BitVec 9) (s : State) : exec (.reservedReq w) s = .next (takeFault .reservedReq s) := rfl

theorem exec_init_again {s : State} (h : s.fsm ≠ .uninit) : exec .init s = .next (takeFault .reinit s) := if_neg h

theorem exec_cmd_early {s : State} (h : s.fsm ≠ .ready) (b : Byte) :
    exec (.cmd b) s = .next (takeFault .notReady s) := if_neg h

theorem exec_data_early {s : State} (h : s.fsm ≠ .ready) (b : Byte) :
    exec (.data b) s = .next (takeFault .notReady s) := if_neg h

/-- Settles O10: each request turned away is the entry of R180 with its code. -/
theorem faultingRequests : Obligations.FaultingRequests :=
  ⟨exec_reservedReq, fun _ h => exec_init_again h, fun b _ h => exec_cmd_early h b, fun b _ h => exec_data_early h b⟩

end Sys2Proof.Proofs
end

section
/-! Proofs about the distance of two events (spec/40_pin_timing.md R87): in a trace whose time is in order it is at least what
the waits between them ask for. -/

namespace Sys2Proof.Proofs

open Sys2Proof.Machine Sys2Proof.Safety

/-- In a trace in order whose waits last, an event comes no earlier than the waits before it allow: each event ends before the
next begins, and lasts what it asks for. -/
theorem apart_of_ordered {e1 e2 : Nat × Event} {between : List (Nat × Event)}
    (ordered : (e1 :: (between ++ [e2])).Pairwise fun a b => eventEnd a ≤ b.1)
    (waited : ∀ e ∈ e1 :: between, e.1 + eventMin e ≤ eventEnd e) :
    e1.1 + eventMin e1 + (between.map eventMin).sum ≤ e2.1 := by
  induction between generalizing e1 with
  | nil =>
    obtain ⟨ends, -⟩ := List.pairwise_cons.mp ordered
    have lasts : e1.1 + eventMin e1 ≤ eventEnd e1 := waited e1 List.mem_cons_self
    simpa using lasts.trans (ends e2 List.mem_cons_self)
  | cons e between ih =>
    obtain ⟨ends, ordered⟩ := List.pairwise_cons.mp ordered
    obtain ⟨lasts, waited⟩ := List.forall_mem_cons.mp waited
    have next : e1.1 + eventMin e1 ≤ e.1 := lasts.trans (ends e List.mem_cons_self)
    calc e1.1 + eventMin e1 + ((e :: between).map eventMin).sum
        = e1.1 + eventMin e1 + (eventMin e + (between.map eventMin).sum) := by rw [List.map_cons, List.sum_cons]
      _ ≤ e.1 + eventMin e + (between.map eventMin).sum := by omega
      _ ≤ e2.1 := ih ordered waited

/-- The same for two events anywhere in the trace. -/
theorem timeInv_apart {t : State} {before between after : List (Nat × Event)} {e1 e2 : Nat × Event} (inv : TimeInv t)
    (trace : t.trace = before ++ e1 :: between ++ e2 :: after) :
    e1.1 + eventMin e1 + (between.map eventMin).sum ≤ e2.1 := by
  have part : (e1 :: (between ++ [e2])).Sublist t.trace := by
    have whole : t.trace = before ++ e1 :: (between ++ [e2]) ++ after := by simp [trace]
    exact whole ▸ (List.sublist_append_right _ _).trans (List.sublist_append_left _ _)
  refine apart_of_ordered (inv.ordered.sublist part) fun e he => inv.waited e (part.subset ?_)
  exact List.mem_append_left [e2] he

/-- Settles O50: the step leaves time in order, and a trace in order keeps its events apart. -/
theorem eventsApart : Obligations.EventsApart :=
  fun s t _ _ _ _ _ block inv h trace => timeInv_apart (timeInvKept s t block inv h) trace

end Sys2Proof.Proofs
end

section
/-! Proofs about the micro-operations and their places in the schedules (spec/40_pin_timing.md R88-R95, R99): what the
operations on lines and registers do, which operands the schedules give them, and what stands before and after each. -/

namespace Sys2Proof.Proofs

open Sys2Proof.Machine Sys2Proof.Laws Sys2Proof.Safety

/-! ### The operands the schedules use -/

theorem setRs_mem_txSchedule {v : RsOperand} : .setRs v ∈ txSchedule ↔ v = .reqRs := by
  simp [txSchedule, present, pulse]

theorem setRs_mem_initSchedule {v : RsOperand} : .setRs v ∈ initSchedule ↔ v = .level false ∨ v = .reqRs := by
  simp [initSchedule, bootGroup, switchGroup, initTransfer, present, pulse, setRs_mem_txSchedule]

theorem setFsm_notMem_txSchedule (f : Fsm) : .setFsm f ∉ txSchedule := by
  simp [txSchedule, present, pulse]

theorem setFsm_mem_initSchedule {f : Fsm} : .setFsm f ∈ initSchedule ↔ f = .boot4 ∨ f = .ready := by
  simp [initSchedule, bootGroup, switchGroup, initTransfer, present, pulse, setFsm_notMem_txSchedule]

/-- R89: SET_RS's operand. -/
theorem setRs_operand {c : Sched} {v : RsOperand} (h : .setRs v ∈ c.steps) : v = .level false ∨ v = .reqRs := by
  cases c with
  | none => exact absurd h List.not_mem_nil
  | init => exact setRs_mem_initSchedule.mp h
  | tx => exact .inr (setRs_mem_txSchedule.mp h)

/-- R95: the values a schedule sets FSM to. -/
theorem setFsm_operand {c : Sched} {f : Fsm} (h : .setFsm f ∈ c.steps) : f = .boot4 ∨ f = .ready := by
  cases c with
  | none => exact absurd h List.not_mem_nil
  | init => exact setFsm_mem_initSchedule.mp h
  | tx => exact absurd h (setFsm_notMem_txSchedule f)

/-! ### What stands around a step of a schedule -/

/-- A fact about every step of the schedules, from its finitely many cases. -/
theorem forall_steps {p : Sched → Nat → Micro → Prop}
    (all : ∀ c ∈ [Sched.init, .tx], ∀ k < c.steps.length, ∀ m ∈ c.steps[k]?, p c k m)
    {c : Sched} {k : Nat} {m : Micro} (at_pc : c.steps[k]? = some m) : p c k m := by
  have listed : c ∈ [Sched.init, .tx] := by
    cases c with
    | none => cases at_pc
    | init => decide
    | tx => decide
  exact all c listed k (List.getElem?_eq_some_iff.mp at_pc).1 m at_pc

/-- The micro-operations that R91 and R99 (c) allow only while E is 0. -/
def needsLowE (m : Micro) : Bool :=
  match m with
  | .eHi | .setRs _ | .setD _ => true
  | .cfg | .eLo | .wait _ | .load _ _ | .setFsm _ => false

/-- R91, R99 (c): a schedule runs them only there. -/
theorem levelAfter_of_needsLowE {c : Sched} {k : Nat} {m : Micro} (at_pc : c.steps[k]? = some m) :
    needsLowE m = true → levelAfter (c.steps.take k) = false :=
  forall_steps (p := fun c k m => needsLowE m = true → levelAfter (c.steps.take k) = false) (by decide +kernel) at_pc

/-- What R99 (a), (b) and (d) ask to stand right after a micro-operation. -/
def mustFollow (m : Micro) : List Micro :=
  match m with
  | .eHi => [.wait .pulseWidth, .eLo]
  | .eLo => [.wait .hold]
  | .setD _ => [.wait .dataSetup, .eHi]
  | .cfg | .setRs _ | .wait _ | .load _ _ | .setFsm _ => []

/-- R99 (a), (b), (d): in a schedule it does. -/
theorem mustFollow_follows {c : Sched} {k : Nat} {m : Micro} (at_pc : c.steps[k]? = some m) :
    ∀ i < (mustFollow m).length, c.steps[k + 1 + i]? = (mustFollow m)[i]? :=
  forall_steps (p := fun c k m => ∀ i < (mustFollow m).length, c.steps[k + 1 + i]? = (mustFollow m)[i]?)
    (by decide +kernel) at_pc

/-- R99 (b): every falling edge of E ends a pulse. -/
theorem eHi_before_eLo {c : Sched} {k : Nat} (at_pc : c.steps[k]? = some .eLo) :
    2 ≤ k ∧ c.steps[k - 2]? = some .eHi :=
  forall_steps (p := fun c k m => m = .eLo → 2 ≤ k ∧ c.steps[k - 2]? = some .eHi) (by decide +kernel) at_pc rfl

/-- R99 (e): RS is set and its setup time waited for before every pulse, in TX at steps 0 and 1, in INIT at 2 and 3. -/
theorem rsSetup_before_eHi {c : Sched} {k : Nat} (at_pc : c.steps[k]? = some .eHi) :
    ∃ j v, j + 1 < k ∧ c.steps[j]? = some (.setRs v) ∧ c.steps[j + 1]? = some (.wait .rsSetup) := by
  cases c with
  | none => cases at_pc
  | tx =>
    have late : ∀ i ≤ 1, (Sched.steps .tx)[i]? ≠ some .eHi := by decide
    exact ⟨0, .reqRs, Nat.lt_of_not_le fun early => late k early at_pc, rfl, rfl⟩
  | init =>
    have late : ∀ i ≤ 3, (Sched.steps .init)[i]? ≠ some .eHi := by decide
    exact ⟨2, .level false, Nat.lt_of_not_le fun early => late k early at_pc, rfl, rfl⟩

/-- R99 (f): a schedule ends with E at 0. -/
theorem levelAfter_steps (c : Sched) : levelAfter c.steps = false := by
  cases c with
  | none => rfl
  | init => rfl
  | tx => rfl

/-! ### The operations on lines and registers -/

/-- R95: only SET_FSM writes FSM. -/
theorem microEffect_fsm {m : Micro} {s t : State} (h : microEffect m s = .next t) (ne : ∀ f, m ≠ .setFsm f) :
    t.fsm = s.fsm := by
  cases m with
  | setFsm f => exact absurd rfl (ne f)
  | eLo =>
    have frame : t = { dropE s with rx := t.rx, draws := t.draws } := doELo_frame h
    rw [frame, dropE_fsm]
  | _ => cases h; rfl

/-- Settles O19: the effects are those of `doSetRs`, `doSetD` and `doEHi`. -/
theorem lineMicroOperations : Obligations.LineMicroOperations := by
  refine ⟨fun _ _ => rfl, fun _ => rfl, fun _ _ => rfl, fun _ => rfl, fun _ => rfl, fun _ => rfl,
    fun _ _ => setRs_operand, fun c k m at_pc line => levelAfter_of_needsLowE at_pc ?_⟩
  obtain rfl | ⟨v, rfl⟩ | ⟨n, rfl⟩ := line
  · rfl
  · rfl
  · rfl

/-- Settles O20: the effects are those of `doCfg`, `doLoad` and `doSetFsm`. -/
theorem registerMicroOperations : Obligations.RegisterMicroOperations :=
  ⟨fun _ => rfl, fun _ _ _ => rfl, fun _ _ => rfl, fun _ _ => setFsm_operand,
    fun _ _ _ ne h => microEffect_fsm h ne⟩

/-- Settles O43: (a) to (f) of R99 from what stands before and after each step. -/
theorem schedulesWellFormed : Obligations.SchedulesWellFormed := by
  refine fun c k => ⟨fun rise => ?a, fun fall => ?b, fun m at_pc line => ?c, fun n data => ?d, fun rise _ => ?e, rfl,
    levelAfter_steps c⟩
  case a => exact ⟨mustFollow_follows rise 0 (by decide), mustFollow_follows rise 1 (by decide)⟩
  case b => exact ⟨mustFollow_follows fall 0 (by decide), eHi_before_eLo fall⟩
  case c =>
    refine levelAfter_of_needsLowE at_pc ?_
    obtain ⟨v, rfl⟩ | ⟨n, rfl⟩ := line
    · rfl
    · rfl
  case d => exact ⟨mustFollow_follows data 0 Nat.zero_lt_two, mustFollow_follows data 1 Nat.one_lt_two⟩
  case e => exact rsSetup_before_eHi rise

end Sys2Proof.Proofs
end

section
/-! Proofs about what a schedule puts on the bus (spec/41_nibble_transfer.md R102, R104, R105, 42_controller_fsm.md R117,
R132): every step keeps the data path and the latched stream where the micro-operations run so far put them. -/

namespace Sys2Proof.Proofs

open Sys2Proof.Machine Sys2Proof.Laws Sys2Proof.Safety

theorem inside_of_at_pc {s : State} {m : Micro} (at_pc : s.sched.steps[s.step]? = some m) : s.sched ≠ .none :=
  fun outside => by rw [outside] at at_pc; cases at_pc

/-! ### A state on a data path -/

/-- The registers, the driven lines and the end of the latched stream of s are those of the data path p. -/
structure OnPath (s : State) (p : DataPath) (before : List (Bool × Nibble)) : Prop where
  reqRs : s.reqRs = p.reqRs
  reqByte : s.reqByte = p.reqByte
  lines : s.oe = true → s.lineRs = p.rs ∧ s.lineD = p.d
  latched : s.latched = before ++ p.out

/-- Inside a schedule the invariant says that the state is on the path of the micro-operations run so far. -/
theorem scheduleInv_iff_onPath {s : State} : ScheduleInv s ↔
    s.sched = .none ∨ ∃ rs0 b0 l0 d0 before, OnPath s (pathAfter rs0 b0 l0 d0 (opsDone s)) before := by
  refine or_congr_right ⟨?_, ?_⟩
  · rintro ⟨rs0, b0, l0, d0, before, reqRs, reqByte, lines, latched⟩
    exact ⟨rs0, b0, l0, d0, before, reqRs, reqByte, lines, latched⟩
  · rintro ⟨rs0, b0, l0, d0, before, on⟩
    exact ⟨rs0, b0, l0, d0, before, on.reqRs, on.reqByte, on.lines, on.latched⟩

theorem exists_onPath {s : State} (inv : ScheduleInv s) (inside : s.sched ≠ .none) :
    ∃ rs0 b0 l0 d0 before, OnPath s (pathAfter rs0 b0 l0 d0 (opsDone s)) before :=
  (scheduleInv_iff_onPath.mp inv).resolve_left inside

theorem pathAfter_concat (rs : Bool) (b : Byte) (l : Bool) (d : Nibble) (ops : List Micro) (m : Micro) :
    pathAfter rs b l d (ops ++ [m]) = (pathAfter rs b l d ops).micro m := by
  simp only [pathAfter, List.foldl_concat]

/-- The path does not depend on anything but the data path's registers, OE and the stream. -/
theorem OnPath.congr {s t : State} {p : DataPath} {before : List (Bool × Nibble)} (on : OnPath s p before)
    (reqRs : t.reqRs = s.reqRs) (reqByte : t.reqByte = s.reqByte) (oe : t.oe = s.oe) (lineRs : t.lineRs = s.lineRs)
    (lineD : t.lineD = s.lineD) (latched : t.latched = s.latched) : OnPath t p before where
  reqRs := reqRs.trans on.reqRs
  reqByte := reqByte.trans on.reqByte
  lines driven := by rw [lineRs, lineD]; exact on.lines (oe.symm.trans driven)
  latched := latched.trans on.latched

section

variable {s : State} {p : DataPath} {before : List (Bool × Nibble)} (on : OnPath s p before)

include on

theorem OnPath.elapse : OnPath (elapse s) p before := on.congr rfl rfl rfl rfl rfl rfl

theorem OnPath.advance : OnPath (advance s) p before := on.congr rfl rfl rfl rfl rfl rfl

theorem OnPath.waitBegin (t : Nat) : OnPath (waitBegin t s) p before := on.congr rfl rfl rfl rfl rfl rfl

theorem OnPath.waitEnd (t : Nat) : OnPath (waitEnd t s) p before := on.congr rfl rfl rfl rfl rfl rfl

theorem OnPath.envTurn {t : State} (h : envTurn s = .next t) : OnPath t p before := by
  rw [(envTurn_frame h).1]
  exact on.congr rfl rfl rfl rfl rfl rfl

/-- R104, R105: while the lines are driven, a falling edge latches what the path has on RS and D. -/
theorem OnPath.doELo {u : State} (driven : s.oe = true) (h : doELo s = .next u) : OnPath u (p.micro .eLo) before := by
  obtain ⟨rs, d⟩ := on.lines driven
  have latched : (dropE s).latched = before ++ (p.micro .eLo).out := by
    rw [dropE_latched, if_pos driven, on.latched, rs, d, List.append_assoc]
    rfl
  rw [doELo_frame h]
  exact ⟨on.reqRs, on.reqByte, on.lines, latched⟩

/-- A micro-operation takes a state along its path; E falls only while the lines are driven. -/
theorem OnPath.microEffect {m : Micro} {u : State} (driven : m = .eLo → s.oe = true) (h : microEffect m s = .next u) :
    OnPath u (p.micro m) before := by
  obtain ⟨reqRs, reqByte, lines, latched⟩ := id on
  cases m with
  | eLo => exact on.doELo (driven rfl) h
  | cfg => cases h; exact ⟨reqRs, reqByte, fun _ => ⟨rfl, rfl⟩, latched⟩
  | setRs v =>
    cases h
    cases v with
    | level v => exact ⟨reqRs, reqByte, fun oe => ⟨rfl, (lines oe).2⟩, latched⟩
    | reqRs => exact ⟨reqRs, reqByte, fun oe => ⟨reqRs, (lines oe).2⟩, latched⟩
  | setD n =>
    cases h
    cases n with
    | const n => exact ⟨reqRs, reqByte, fun oe => ⟨(lines oe).1, rfl⟩, latched⟩
    | hiReq => exact ⟨reqRs, reqByte, fun oe => ⟨(lines oe).1, congrArg hi reqByte⟩, latched⟩
    | loReq => exact ⟨reqRs, reqByte, fun oe => ⟨(lines oe).1, congrArg lo reqByte⟩, latched⟩
  | load rs b => cases h; exact ⟨rfl, rfl, lines, latched⟩
  | eHi => cases h; exact ⟨reqRs, reqByte, lines, latched⟩
  | wait w => cases h; exact ⟨reqRs, reqByte, lines, latched⟩
  | setFsm f => cases h; exact ⟨reqRs, reqByte, lines, latched⟩

end

/-- A due phase begins a WAIT, which leaves pc and path alone, or ends a micro-operation: pc and path move on. -/
theorem onPath_duePhase {m : Micro} {s t : State} {p : DataPath} {before : List (Bool × Nibble)} (block : BlockInv s)
    (on : OnPath s p before) (at_pc : s.sched.steps[s.step]? = some m) (h : runPhase (m.duePhase s) s = .next t) :
    (t.sched = s.sched ∧ t.step = s.step ∧ OnPath t p before)
      ∨ (t.sched = (advance s).sched ∧ t.step = (advance s).step ∧ OnPath t (p.micro m) before) := by
  have driven : m = .eLo → s.oe = true := fun edge => driven_at_eLo block (edge ▸ at_pc)
  obtain ⟨w, rfl, -, rfl⟩ | ⟨w, rfl, -, rfl⟩ | ⟨noWait, u, hu, rfl⟩ := duePhase_cases h
  · exact .inl ⟨rfl, rfl, on.waitBegin _⟩
  · exact .inr ⟨rfl, rfl, (on.waitEnd _).advance⟩
  · have idle := waitFrom_of_micro block at_pc noWait
    obtain ⟨sched, step⟩ : u.sched = s.sched ∧ u.step = s.step :=
      have done := microEffect_done hu noWait idle (block.noWait idle)
      ⟨done.sched, done.step⟩
    refine .inr ⟨?_, ?_, (on.microEffect driven hu).advance.elapse⟩
    · rw [elapse_sched, advance_sched, advance_sched, sched, step]
    · rw [elapse_step, advance_step, advance_step, sched, step]

/-! ### The micro-operations run so far -/

theorem take_succ_eq_concat {c : Sched} {k : Nat} {m : Micro} (at_pc : c.steps[k]? = some m) :
    c.steps.take (k + 1) = c.steps.take k ++ [m] := by
  rw [List.take_add_one, at_pc, Option.toList_some]

/-- A due phase keeps pc in its schedule, at the same step or the next, or ends the schedule. -/
theorem duePhase_place {m : Micro} {s t : State} (at_pc : s.sched.steps[s.step]? = some m)
    (h : runPhase (m.duePhase s) s = .next t) :
    t.sched = .none ∨ (t.sched = s.sched ∧ (t.step = s.step ∨ t.step = s.step + 1)) := by
  obtain ⟨sched, step⟩ | ⟨sched, step⟩ := runPhase_pc h
  · exact .inr ⟨sched, .inl step⟩
  · obtain ⟨-, same, next⟩ | ⟨-, ended, -⟩ := advance_cases at_pc
    · exact .inr ⟨sched.trans same, .inr (step.trans next)⟩
    · exact .inl (sched.trans ended)

/-- Where STEP has advanced one more micro-operation is done, or the schedule was over with it. -/
theorem opsDone_advanced {m : Micro} {s t : State} (at_pc : s.sched.steps[s.step]? = some m)
    (sched : t.sched = (advance s).sched) (step : t.step = (advance s).step) :
    (t.sched = s.sched ∧ t.step = s.step + 1 ∧ opsDone t = opsDone s ++ [m])
      ∨ (t.sched = .none ∧ s.sched.steps = opsDone s ++ [m]) := by
  obtain ⟨-, sched', step'⟩ | ⟨last, sched', -⟩ := advance_cases at_pc
  · have same : t.sched = s.sched := sched.trans sched'
    have next : t.step = s.step + 1 := step.trans step'
    exact .inl ⟨same, next, by rw [opsDone, same, next, take_succ_eq_concat at_pc, opsDone]⟩
  · exact .inr ⟨sched.trans sched', by rw [opsDone, ← take_succ_eq_concat at_pc, last, List.take_length]⟩

/-! ### The parts of a step keep the invariant -/

/-- A schedule begins on the path that has latched nothing yet. -/
theorem scheduleInv_of_start {s : State} (start : s.step = 0) : ScheduleInv s := by
  have none_done : opsDone s = [] := by rw [opsDone, start, List.take_zero]
  exact scheduleInv_iff_onPath.mpr (.inr ⟨s.reqRs, s.reqByte, s.lineRs, s.lineD, s.latched,
    by rw [none_done]; exact ⟨rfl, rfl, fun _ => ⟨rfl, rfl⟩, (List.append_nil _).symm⟩⟩)

theorem scheduleInv_envTurn {s t : State} (inv : ScheduleInv s) (h : envTurn s = .next t) : ScheduleInv t := by
  rw [(envTurn_frame h).1]
  exact inv

/-- A due phase keeps the invariant; and where it ends a schedule the state is on the path of all its steps. -/
theorem schedule_duePhase {m : Micro} {s t : State} (block : BlockInv s) (inv : ScheduleInv s)
    (at_pc : s.sched.steps[s.step]? = some m) (h : runPhase (m.duePhase s) s = .next t) :
    ScheduleInv t ∧ (t.sched = .none → ∃ rs0 b0 l0 d0 before, OnPath t (pathAfter rs0 b0 l0 d0 s.sched.steps) before) := by
  have inside := inside_of_at_pc at_pc
  obtain ⟨rs0, b0, l0, d0, before, on⟩ := exists_onPath inv inside
  obtain ⟨sched, step, on'⟩ | ⟨sched, step, on'⟩ := onPath_duePhase block on at_pc h
  · have same : opsDone t = opsDone s := by rw [opsDone, opsDone, sched, step]
    exact ⟨scheduleInv_iff_onPath.mpr (.inr ⟨rs0, b0, l0, d0, before, same ▸ on'⟩),
      fun ended => absurd (sched.symm.trans ended) inside⟩
  · rw [← pathAfter_concat] at on'
    obtain ⟨same, -, ops⟩ | ⟨ended, ops⟩ := opsDone_advanced at_pc sched step
    · exact ⟨scheduleInv_iff_onPath.mpr (.inr ⟨rs0, b0, l0, d0, before, ops ▸ on'⟩),
        fun ended => absurd (same.symm.trans ended) inside⟩
    · exact ⟨.inl ended, fun _ => ⟨rs0, b0, l0, d0, before, ops ▸ on'⟩⟩

/-- An accepted request starts a schedule at its first step, or leaves none. -/
theorem step_of_request {w : ReqWord} {s t : State} (h : exec (decodeReq w) s = .next t) : t.step = 0 := by
  obtain ⟨-, -, e⟩ | ⟨b, -, -, e⟩ | ⟨b, -, -, e⟩ | ⟨c, -, e⟩ := request_cases w s
  · cases e.symm.trans h; rfl
  · cases e.symm.trans h; rfl
  · cases e.symm.trans h; rfl
  · cases e.symm.trans h; rfl

/-- Settles O52, beside the block's invariant, by which E falls only while the lines are driven. -/
theorem scheduleInvKept : Obligations.ScheduleInvKept := fun _ _ =>
  step_keeps_beside_blockInv (fun _ _ => scheduleInv_envTurn) (fun _ _ => .inl rfl)
    (fun _ _ _ block inv at_pc h => (schedule_duePhase block inv at_pc h).1)
    (fun _ _ _ _ _ h => have start := step_of_request h; scheduleInv_of_start start) (fun _ _ _ outside => .inl outside)

/-! ### What the schedules leave on the bus -/

/-- A LOAD, the one micro-operation that writes the data path's registers (R94). -/
def isLoad (m : Micro) : Bool :=
  match m with
  | .load _ _ => true
  | .cfg | .setRs _ | .setD _ | .eHi | .eLo | .wait _ | .setFsm _ => false

/-- Every other micro-operation leaves REQ_RS, REQ_BYTE and SETTLE alone. -/
theorem microEffect_request {m : Micro} {s u : State} (h : microEffect m s = .next u) (noLoad : isLoad m = false) :
    u.reqRs = s.reqRs ∧ u.reqByte = s.reqByte ∧ u.settle = s.settle := by
  cases m with
  | load rs b => cases noLoad
  | eLo =>
    have frame : u = { dropE s with rx := u.rx, draws := u.draws } := doELo_frame h
    rw [frame]
    exact ⟨rfl, rfl, rfl⟩
  | _ => cases h; exact ⟨rfl, rfl, rfl⟩

theorem duePhase_request {m : Micro} {s t : State} (h : runPhase (m.duePhase s) s = .next t) (noLoad : isLoad m = false) :
    t.reqRs = s.reqRs ∧ t.reqByte = s.reqByte ∧ t.settle = s.settle := by
  obtain ⟨w, rfl, -, rfl⟩ | ⟨w, rfl, -, rfl⟩ | ⟨-, u, hu, rfl⟩ := duePhase_cases h
  · exact ⟨rfl, rfl, rfl⟩
  · exact ⟨rfl, rfl, rfl⟩
  · exact microEffect_request (u := u) hu noLoad

theorem isLoad_of_tx : ∀ m ∈ txSchedule, isLoad m = false := by decide

/-- A step inside a schedule is the environment's turn, which leaves the schedule alone, then a reset or the schedule's
turn. -/
theorem step_inside_cases {s t : State} (inside : s.sched ≠ .none) (h : step s = .next t) :
    ∃ u, envTurn s = .next u ∧ (t = holdReset u ∨ scheduleTurn u = .next t) := by
  obtain ⟨u, env, -, turn⟩ := step_cases h
  have sched : u.sched = s.sched := by rw [(envTurn_frame env).1]
  refine ⟨u, env, ?_⟩
  obtain ⟨-, held⟩ | ⟨-, -, turn⟩ | ⟨-, outside, -⟩ | ⟨-, outside, -⟩ := blockTurn_cases turn
  · exact .inl held
  · exact .inr turn
  · exact absurd (sched.symm.trans outside) inside
  · exact absurd (sched.symm.trans outside) inside

/-- A turn inside TX, which holds no single nibble, is the due phase. -/
theorem scheduleTurn_tx {s t : State} (tx : s.sched = .tx) (h : scheduleTurn s = .next t) :
    ∃ m, s.sched.steps[s.step]? = some m ∧ runPhase (m.duePhase s) s = .next t := by
  have noNibble : ∀ i, fetchNibble s ≠ some i := fun i fetched => by
    have init := (fetchNibble_cases fetched).1
    rw [tx] at init
    cases init
  obtain ⟨fetched, -⟩ | ⟨fetched, -⟩ | ⟨-, m, at_pc, phase⟩ := scheduleTurn_cases h
  · exact absurd fetched (noNibble _)
  · exact absurd fetched (noNibble _)
  · exact ⟨m, at_pc, phase⟩

/-- R104, R105, R108: at the end of TX both halves of the byte are latched, and the lines stay at the second pair. -/
theorem OnPath.tx_end {s : State} {rs0 l0 : Bool} {b0 : Byte} {d0 : Nibble} {before : List (Bool × Nibble)}
    (on : OnPath s (pathAfter rs0 b0 l0 d0 txSchedule) before) :
    s.latched = before ++ [(s.reqRs, hi s.reqByte), (s.reqRs, lo s.reqByte)]
      ∧ (s.oe = true → s.lineRs = s.reqRs ∧ s.lineD = lo s.reqByte) := by
  obtain ⟨out, rs, d⟩ := pathAfter_tx rs0 l0 b0 d0
  have reqRs : s.reqRs = rs0 := on.reqRs
  have reqByte : s.reqByte = b0 := on.reqByte
  have latched := on.latched
  have lines := on.lines
  rw [out] at latched
  rw [rs, d] at lines
  rw [reqRs, reqByte]
  exact ⟨latched, lines⟩

/-- R132: what INIT latches, whatever stood in the data path before. -/
theorem pathAfter_init (rs l : Bool) (b : Byte) (d : Nibble) : (pathAfter rs b l d initSchedule).out =
    [(false, 0x3), (false, 0x3), (false, 0x3), (false, 0x2), (false, 0x2), (false, 0x8), (false, 0x0),
      (false, 0x8), (false, 0x0), (false, 0x1), (false, 0x0), (false, 0x6), (false, 0x0), (false, 0xC)] := by
  simp [pathAfter, initSchedule, bootGroup, switchGroup, initTransfer, txSchedule, present, pulse, DataPath.micro, hi, lo]

/-- A step that ends TX. -/
theorem tx_latches {s t : State} (block : BlockInv s) (inv : ScheduleInv s) (h : step s = .next t) (tx : s.sched = .tx)
    (ended : t.sched = .none) (ready : t.fsm = .ready) :
    (∃ before, t.latched = before ++ [(s.reqRs, hi s.reqByte), (s.reqRs, lo s.reqByte)])
      ∧ t.lineRs = s.reqRs ∧ t.lineE = false ∧ t.lineD = lo s.reqByte ∧ t.oe = true := by
  have block' := blockInvKept s t block h
  have driven : t.oe = true := ((oeFits_none_iff ended).mp block'.oe).2 ready
  have low : t.lineE = false := lineE_of_outside block' ended driven
  obtain ⟨u, env, rfl | turn⟩ := step_inside_cases (by rw [tx]; decide) h
  · cases ready
  have frame := (envTurn_frame env).1
  have tx' : u.sched = .tx := by rw [frame]; exact tx
  obtain ⟨m, at_pc, phase⟩ := scheduleTurn_tx tx' turn
  obtain ⟨rs0, b0, l0, d0, before, on⟩ :=
    (schedule_duePhase (blockInv_envTurn block env) (scheduleInv_envTurn inv env) at_pc phase).2 ended
  rw [tx'] at at_pc on
  obtain ⟨reqRs, reqByte, -⟩ := duePhase_request phase (isLoad_of_tx m (List.mem_of_getElem? at_pc))
  obtain ⟨latched, lines⟩ := on.tx_end
  obtain ⟨lineRs, lineD⟩ := lines driven
  rw [frame] at reqRs reqByte
  rw [reqRs, reqByte] at latched
  exact ⟨⟨before, latched⟩, lineRs.trans reqRs, low, lineD.trans (congrArg lo reqByte), driven⟩

/-- What a turn inside INIT keeps: the schedule runs, or it is over, and then a state in READY is on the path of all its
steps. -/
structure InitRuns (s : State) : Prop where
  block : BlockInv s
  schedule : ScheduleInv s
  place : s.sched = .init ∨ s.sched = .none
  left : s.sched = .none → s.fsm = .ready → ∃ rs0 b0 l0 d0 before, OnPath s (pathAfter rs0 b0 l0 d0 initSchedule) before

theorem initRuns_envTurn {s t : State} (runs : InitRuns s) (h : envTurn s = .next t) : InitRuns t := by
  have frame := (envTurn_frame h).1
  have sched : t.sched = s.sched := by rw [frame]
  have fsm : t.fsm = s.fsm := by rw [frame]
  refine ⟨blockInv_envTurn runs.block h, scheduleInv_envTurn runs.schedule h, sched ▸ runs.place, ?_⟩
  rw [sched, fsm]
  intro outside ready
  obtain ⟨rs0, b0, l0, d0, before, on⟩ := runs.left outside ready
  exact ⟨rs0, b0, l0, d0, before, on.envTurn h⟩

theorem initRuns_holdReset (s : State) : InitRuns (holdReset s) :=
  ⟨blockInv_holdReset s, .inl rfl, .inr rfl, fun _ ready => nomatch ready⟩

theorem initRuns_duePhase {m : Micro} {s t : State} (runs : InitRuns s) (at_pc : s.sched.steps[s.step]? = some m)
    (h : runPhase (m.duePhase s) s = .next t) : InitRuns t := by
  have init : s.sched = .init := runs.place.resolve_right (inside_of_at_pc at_pc)
  obtain ⟨inv, left⟩ := schedule_duePhase runs.block runs.schedule at_pc h
  rw [init] at left
  refine ⟨blockInv_duePhase runs.block at_pc h, inv, ?_, fun ended _ => left ended⟩
  obtain ended | ⟨same, -⟩ := duePhase_place at_pc h
  · exact .inr ended
  · exact .inl (same.trans init)

/-- A step that ends INIT leaves the state on the path of all its steps. -/
theorem onPath_of_init_ended {s t : State} (block : BlockInv s) (inv : ScheduleInv s) (h : step s = .next t)
    (init : s.sched = .init) (ended : t.sched = .none) (ready : t.fsm = .ready) :
    ∃ rs0 b0 l0 d0 before, OnPath t (pathAfter rs0 b0 l0 d0 initSchedule) before := by
  have runs : InitRuns s := ⟨block, inv, .inl init, fun outside => nomatch init.symm.trans outside⟩
  obtain ⟨u, env, rfl | turn⟩ := step_inside_cases (by rw [init]; decide) h
  · cases ready
  have runs' : InitRuns t := scheduleTurn_keeps_due (fun _ _ => initRuns_envTurn) (fun s _ => initRuns_holdReset s)
    (fun _ _ _ => initRuns_duePhase) (fun _ runs => waitFrom_of_fetchNibble runs.block) (initRuns_envTurn runs env) turn
  exact runs'.left ended ready

/-- Settles O53: at a schedule's end the latched stream ends with what all its steps latch. -/
theorem schedulesLatch : Obligations.SchedulesLatch := by
  refine ⟨fun _ _ => tx_latches, fun s t block inv h init ended ready => ?_⟩
  obtain ⟨rs0, b0, l0, d0, before, on⟩ := onPath_of_init_ended block inv h init ended ready
  exact ⟨before, pathAfter_init rs0 l0 b0 d0 ▸ on.latched⟩

end Sys2Proof.Proofs
end

section
/-! Proofs about the start of a byte transfer and its settle (spec/41_nibble_transfer.md R100, R101, R103). -/

namespace Sys2Proof.Proofs

open Sys2Proof.Machine

/-! ### Settle classes -/

theorem settleOf_data (l : List Byte) (b : Byte) : settleOf l true b = .data := rfl

theorem settleOf_long {l : List Byte} {b : Byte} (listed : b ∈ l) : settleOf l false b = .long := by
  simp [settleOf, listed]

theorem settleOf_short {l : List Byte} {b : Byte} (notListed : b ∉ l) : settleOf l false b = .short := by
  simp [settleOf, notListed]

/-- The default long set (R7). -/
theorem mem_longSet_initial (b : Byte) : b ∈ Config.initial.longSet ↔ b = 0x01 ∨ b = 0x02 ∨ b = 0x03 := by
  simp [Config.initial]

/-- Settles O42: the class from RS and the long set, the durations and the one settle wait from their definitions. -/
theorem settleClasses : Obligations.SettleClasses :=
  ⟨settleOf_data, fun _ _ => settleOf_long, fun _ _ => settleOf_short, fun _ => ⟨rfl, rfl, rfl⟩, mem_longSet_initial,
    by decide⟩

/-! ### A byte transfer accepted in READY -/

theorem exec_cmd_ready {s : State} (h : s.fsm = .ready) (b : Byte) : exec (.cmd b) s = .next (startTx false b s) := if_pos h

theorem exec_data_ready {s : State} (h : s.fsm = .ready) (b : Byte) : exec (.data b) s = .next (startTx true b s) := if_pos h

/-- Settles O11: both requests are `startTx`, and with RS = 1 the settle class is DATA. -/
theorem byteTransfersStart : Obligations.ByteTransfersStart :=
  ⟨fun b _ h => exec_cmd_ready h b, fun b _ h => exec_data_ready h b⟩

end Sys2Proof.Proofs
end

section
/-! Proofs about the falling edges of the schedules (spec/41_nibble_transfer.md R102, R110, 42_controller_fsm.md R117): what
each latches, and the least time that passes before the next. -/

namespace Sys2Proof.Proofs

open Sys2Proof.Machine Sys2Proof.Laws Sys2Proof.Safety

/-! ### The falling edges of a schedule -/

/-- The falling edges of the schedules: the three bootstrap pulses and the switch (R119, R120), and the high and the low half
of a byte (R102). -/
inductive Edge where
  | pulse1
  | pulse2
  | pulse3
  | switch
  | high
  | low
  deriving DecidableEq

/-- The edge to come after n edges of a schedule. -/
def edgeAt (c : Sched) (n : Nat) : Edge :=
  match c with
  | .init =>
    if n = 0 then .pulse1
    else if n = 1 then .pulse2
    else if n = 2 then .pulse3
    else if n = 3 then .switch
    else if n % 2 = 0 then .high
    else .low
  | .tx | .none => if n = 1 then .low else .high

/-- The edge to come in a state inside a schedule. -/
def nextEdge (s : State) : Edge := edgeAt s.sched (edges (opsDone s))

/-- The edge after an edge. -/
def Edge.next : Edge → Edge
  | .pulse1 => .pulse2
  | .pulse2 => .pulse3
  | .pulse3 => .switch
  | .switch => .high
  | .high => .low
  | .low => .high

/-- What an edge latches on the data lines. -/
def Edge.nibble : Edge → NibbleOperand
  | .pulse1 | .pulse2 | .pulse3 => .const 3
  | .switch => .const 2
  | .high => .hiReq
  | .low => .loReq

/-- The wait after an edge in which the receiver finishes what the edge made it execute; after a high half, which completes
no byte, any. -/
def Edge.wait : Edge → WaitOperand
  | .pulse1 => .boot1
  | .pulse2 => .boot2
  | .pulse3 => .boot3
  | .switch => .switch
  | .high => .hold
  | .low => .settle

/-- The edge latches a half of REQ_BYTE. -/
def Edge.isByte : Edge → Bool
  | .pulse1 | .pulse2 | .pulse3 | .switch => false
  | .high | .low => true

/-- The waits some micro-operations hold before their first falling edge of E. -/
def waitsToEdge : List Micro → List WaitOperand
  | [] => []
  | .eLo :: _ => []
  | .wait w :: rest => w :: waitsToEdge rest
  | .cfg :: rest | .setRs _ :: rest | .setD _ :: rest | .eHi :: rest | .load _ _ :: rest | .setFsm _ :: rest =>
    waitsToEdge rest

/-! ### Facts of the schedules' lists -/

theorem edges_concat (ops : List Micro) {m : Micro} (ne : m ≠ .eLo) : edges (ops ++ [m]) = edges ops := by
  simp [edges, List.countP_append, ne]

theorem edges_concat_eLo (ops : List Micro) : edges (ops ++ [.eLo]) = edges ops + 1 := by
  simp [edges, List.countP_append]

/-- The edges come in their order. -/
theorem edgeAt_succ {c : Sched} {k : Nat} (at_pc : c.steps[k]? = some .eLo) :
    edgeAt c (edges (c.steps.take k) + 1) = (edgeAt c (edges (c.steps.take k))).next :=
  forall_steps (p := fun c k m => m = .eLo →
    edgeAt c (edges (c.steps.take k) + 1) = (edgeAt c (edges (c.steps.take k))).next) (by decide +kernel) at_pc rfl

/-- A schedule ends between two bytes. -/
theorem edgeAt_end {c : Sched} (inside : c ≠ .none) : edgeAt c (edges c.steps) = .high := by
  cases c with
  | none => exact absurd rfl inside
  | init => decide
  | tx => decide

/-- R96: right before an edge its nibble is presented. -/
theorem take_at_edge {c : Sched} {k : Nat} (at_pc : c.steps[k]? = some .eLo) :
    c.steps.take k = c.steps.take (k - 4) ++ (present (edgeAt c (edges (c.steps.take k))).nibble).take 4 :=
  forall_steps (p := fun c k m => m = .eLo →
    c.steps.take k = c.steps.take (k - 4) ++ (present (edgeAt c (edges (c.steps.take k))).nibble).take 4)
    (by decide +kernel) at_pc rfl

/-- The bytes follow the pulses: TX latches nothing else, INIT from its first LOAD on. -/
theorem isByte_at_edge {c : Sched} {k : Nat} (at_pc : c.steps[k]? = some .eLo) :
    (edgeAt c (edges (c.steps.take k))).isByte = decide (c = .tx ∨ 33 < k) :=
  forall_steps (p := fun c k m => m = .eLo →
    (edgeAt c (edges (c.steps.take k))).isByte = decide (c = .tx ∨ 33 < k)) (by decide +kernel) at_pc rfl

/-- The wait in which the receiver finishes comes before the next edge. -/
theorem wait_after_edge {c : Sched} {k : Nat} (at_pc : c.steps[k]? = some .eLo) :
    (edgeAt c (edges (c.steps.take k))).wait ∈ waitsToEdge (c.steps.drop (k + 1)) :=
  forall_steps (p := fun c k m => m = .eLo →
    (edgeAt c (edges (c.steps.take k))).wait ∈ waitsToEdge (c.steps.drop (k + 1))) (by decide +kernel) at_pc rfl

/-- The least time before the first edge is that of the waits before it. -/
theorem leastTime_eq_sum (s : State) (ops : List Micro) :
    leastTime s ops = ((waitsToEdge ops).map fun w => w.value s).sum := by
  induction ops with
  | nil => rfl
  | cons m rest ih =>
    cases m with
    | eLo => rfl
    | wait w => rw [leastTime, waitsToEdge, List.map_cons, List.sum_cons, ih]
    | _ => exact ih

theorem value_le_leastTime {s : State} {ops : List Micro} {w : WaitOperand} (h : w ∈ waitsToEdge ops) :
    w.value s ≤ leastTime s ops := by
  rw [leastTime_eq_sum]
  exact List.le_sum_of_mem (List.mem_map_of_mem h)

/-- The least time depends on the configuration, and on SETTLE where a settle wait comes before the edge. -/
theorem leastTime_congr {s t : State} {ops : List Micro} (cfg : t.cfg = s.cfg)
    (settle : .settle ∈ waitsToEdge ops → t.settle = s.settle) : leastTime t ops = leastTime s ops := by
  rw [leastTime_eq_sum, leastTime_eq_sum]
  refine congrArg List.sum (List.map_congr_left fun w hw => ?_)
  cases w with
  | settle => exact waitValue_congr .settle cfg (settle hw)
  | _ => simp only [WaitOperand.value, cfg]

/-- A LOAD stands between two bytes, and no settle wait comes between it and the next edge. -/
theorem load_place {c : Sched} {k : Nat} {m : Micro} (at_pc : c.steps[k]? = some m) (load : isLoad m = true) :
    edgeAt c (edges (c.steps.take k)) = .high ∧ .settle ∉ waitsToEdge (c.steps.drop (k + 1)) :=
  forall_steps (p := fun c k m => isLoad m = true →
    edgeAt c (edges (c.steps.take k)) = .high ∧ .settle ∉ waitsToEdge (c.steps.drop (k + 1)))
    (by decide +kernel) at_pc load

end Sys2Proof.Proofs
end

section
/-! Proofs about what the receiver finds at a falling edge (spec/41_nibble_transfer.md R104, R105, R110): the lines
as the schedule has put them there. -/

namespace Sys2Proof.Proofs

open Sys2Proof.Machine Sys2Proof.Laws Sys2Proof.Safety

/-! ### The paths of the schedules at an edge -/

/-- Up to its edge a nibble presented stays on the data lines, and the byte it is a half of in REQ_BYTE. -/
theorem pathAfter_presented (rs0 : Bool) (b0 : Byte) (l0 : Bool) (d0 : Nibble) (ops : List Micro) (n : NibbleOperand)
    {s : State} (reqByte : s.reqByte = (pathAfter rs0 b0 l0 d0 (ops ++ (present n).take 4)).reqByte) :
    (pathAfter rs0 b0 l0 d0 (ops ++ (present n).take 4)).d = n.value s := by
  simp only [pathAfter, List.foldl_append] at reqByte ⊢
  cases n with
  | const n => rfl
  | hiReq => exact congrArg hi reqByte.symm
  | loReq => exact congrArg lo reqByte.symm

/-- R102: in TX the edges come with RS at REQ_RS. -/
theorem path_rs_tx {k : Nat} (at_pc : txSchedule[k]? = some .eLo) (rs0 : Bool) (b0 : Byte) (l0 : Bool) (d0 : Nibble) :
    (pathAfter rs0 b0 l0 d0 (txSchedule.take k)).rs = (pathAfter rs0 b0 l0 d0 (txSchedule.take k)).reqRs := by
  have places : ∀ k < txSchedule.length, txSchedule[k]? = some .eLo → k = 6 ∨ k = 12 := by decide
  obtain rfl | rfl := places k (List.getElem?_eq_some_iff.mp at_pc).1 at_pc
  · rfl
  · rfl

/-- What INIT does to RS and to the data path: CFG begins it and puts RS to 0, as the constant does; every LOAD is of RS = 0
and of a byte that leaves 4-bit framing alone; and RS is set from REQ_RS only after the first LOAD, at step 33 (R117). -/
def initOperand (k : Nat) (m : Micro) : Bool :=
  match m with
  | .cfg => k == 0
  | .setRs (.level v) => k != 33 && !v
  | .setRs .reqRs => decide (33 < k)
  | .load rs b => k != 0 && !rs && hi b != 3
  | .setD _ | .eHi | .eLo | .wait _ | .setFsm _ => k != 0 && k != 33

theorem initOperand_of_init {k : Nat} {m : Micro} (at_pc : initSchedule[k]? = some m) : initOperand k m = true := by
  have all : ∀ k < initSchedule.length, ∀ m ∈ initSchedule[k]?, initOperand k m = true := by decide +kernel
  exact all k (List.getElem?_eq_some_iff.mp at_pc).1 m at_pc

/-- INIT holds RS at 0 from CFG on, and the data path at RS = 0 and such a byte from the first LOAD on. -/
structure InitPath (k : Nat) (p : DataPath) : Prop where
  rs : 0 < k → p.rs = false
  request : 33 < k → p.reqRs = false ∧ hi p.reqByte ≠ 3

theorem initPath_micro {k : Nat} {m : Micro} {p : DataPath} (operand : initOperand k m = true) (path : InitPath k p) :
    InitPath (k + 1) (p.micro m) := by
  have quiet : (k != 0 && k != 33) = true → InitPath (k + 1) p := fun h => by
    obtain ⟨started, noLoad⟩ : k ≠ 0 ∧ k ≠ 33 := by simpa using h
    exact ⟨fun _ => path.rs (by omega), fun _ => path.request (by omega)⟩
  cases m with
  | cfg =>
    obtain rfl : k = 0 := by simpa [initOperand] using operand
    exact ⟨fun _ => rfl, fun late => absurd late (by decide)⟩
  | setRs v =>
    cases v with
    | level v =>
      obtain ⟨noLoad, low⟩ : k ≠ 33 ∧ v = false := by simpa [initOperand] using operand
      exact ⟨fun _ => low, fun _ => path.request (by omega)⟩
    | reqRs =>
      have loaded : 33 < k := by simpa [initOperand] using operand
      exact ⟨fun _ => (path.request loaded).1, fun _ => path.request loaded⟩
  | load rs b =>
    obtain ⟨⟨started, low⟩, keeps⟩ : (k ≠ 0 ∧ rs = false) ∧ hi b ≠ 3 := by simpa [initOperand] using operand
    exact ⟨fun _ => path.rs (by omega), fun _ => ⟨low, keeps⟩⟩
  | setD n =>
    have kept := quiet operand
    cases n <;> exact ⟨kept.rs, kept.request⟩
  | eLo => exact ⟨(quiet operand).rs, (quiet operand).request⟩
  | eHi => exact quiet operand
  | wait w => exact quiet operand
  | setFsm f => exact quiet operand

theorem initPath_take (rs0 : Bool) (b0 : Byte) (l0 : Bool) (d0 : Nibble) {k : Nat} (inRange : k ≤ initSchedule.length) :
    InitPath k (pathAfter rs0 b0 l0 d0 (initSchedule.take k)) := by
  induction k with
  | zero => exact ⟨fun h => absurd h (by decide), fun h => absurd h (by decide)⟩
  | succ k ih =>
    have inside : k < initSchedule.length := inRange
    rw [List.take_add_one, List.getElem?_eq_getElem inside, Option.toList_some, pathAfter_concat]
    exact initPath_micro (initOperand_of_init (List.getElem?_eq_getElem inside)) (ih inside.le)

/-! ### The lines at an edge -/

section

variable {s : State} (block : BlockInv s) (schedule : ScheduleInv s) (at_pc : s.sched.steps[s.step]? = some .eLo)

include block schedule at_pc

theorem lineD_at_edge : s.lineD = (nextEdge s).nibble.value s := by
  have inside := inside_of_at_pc at_pc
  obtain ⟨rs0, b0, l0, d0, before, on⟩ := exists_onPath schedule inside
  have presented : opsDone s = s.sched.steps.take (s.step - 4) ++ (present (nextEdge s).nibble).take 4 :=
    take_at_edge at_pc
  rw [presented] at on
  rw [(on.lines (driven_at_eLo block at_pc)).2]
  exact pathAfter_presented rs0 b0 l0 d0 _ _ on.reqByte

theorem lineRs_at_edge_tx (tx : s.sched = .tx) : s.lineRs = s.reqRs := by
  obtain ⟨rs0, b0, l0, d0, before, on⟩ := exists_onPath schedule (by rw [tx]; decide)
  rw [(on.lines (driven_at_eLo block at_pc)).1, on.reqRs, opsDone, tx]
  rw [tx] at at_pc
  exact path_rs_tx at_pc rs0 b0 l0 d0

theorem lines_at_edge_init (init : s.sched = .init) :
    s.lineRs = false ∧ (33 < s.step → s.reqRs = false ∧ hi s.reqByte ≠ 3) := by
  obtain ⟨rs0, b0, l0, d0, before, on⟩ := exists_onPath schedule (by rw [init]; decide)
  rw [(on.lines (driven_at_eLo block at_pc)).1, on.reqRs, on.reqByte, opsDone, init]
  rw [init] at at_pc
  have started : 0 < s.step := Nat.pos_of_ne_zero fun start => by rw [start] at at_pc; cases at_pc
  have path := initPath_take rs0 b0 l0 d0 (List.getElem?_eq_some_iff.mp at_pc).1.le
  exact ⟨path.rs started, path.request⟩

end

end Sys2Proof.Proofs
end

section
/-! Proofs about the receiver's framing (spec/44_instruction_bytes.md R153-R158, 41_nibble_transfer.md R110, R175,
42_controller_fsm.md R119, R120): what an executed byte and a latch make of it, and the byte a transfer forms. -/

namespace Sys2Proof.Proofs

open Sys2Proof.Machine Sys2Proof.Laws Sys2Proof.Safety

/-! ### The framing after an executed byte -/

theorem hi_byteOf (x y : Nibble) : hi (byteOf x y) = x := by
  revert x y; decide +kernel

theorem byteOf_hi_lo (b : Byte) : byteOf (hi b) (lo b) = b := by
  revert b; decide +kernel

/-- R158: a function set with DL = 1. -/
theorem highBits_of_hi_three {b : Byte} (h : hi b = 3) : b &&& 0xF0 = 0x30 := by
  revert b; decide +kernel

/-- R157, R158: a function set with DL = 0. -/
theorem highBits_of_hi_two {b : Byte} (h : hi b = 2) : b &&& 0xF0 = 0x20 := by
  revert b; decide +kernel

/-- R176: no function set. -/
theorem highBits_of_hi_other {b : Byte} (three : hi b ≠ 3) (two : hi b ≠ 2) : b &&& 0xE0 ≠ 0x20 := by
  revert b; decide +kernel

/-- An instruction byte with high half 3 leaves 8-bit framing, one with high half 2 4-bit framing, any other the framing it
found. -/
theorem rxExec_instruction_framing {b : Byte} {s t : State} (h : rxExec false b s = .next t) :
    (hi b = 3 → t.rx.ifmode = some .m8) ∧ (hi b = 2 → t.rx.ifmode = some .m4h)
      ∧ (hi b ≠ 3 → hi b ≠ 2 → t.rx.ifmode = s.rx.ifmode) := by
  obtain ⟨f, effect⟩ := rxExec_instruction b
  rw [effect.transfer] at h
  obtain ⟨-, r, hr, rfl⟩ := rxTransfer_cases h
  cases hr
  exact ⟨fun three => effect.eightBit (highBits_of_hi_three three) s.rx,
    fun two => effect.fourBit (highBits_of_hi_two two) s.rx,
    fun three two => effect.framing (highBits_of_hi_other three two) s.rx⟩

/-- A data write leaves the framing alone. -/
theorem writeDataEffect_framing {b : Byte} {r r' : Receiver} (h : writeDataEffect b r = .next r') :
    r'.ifmode = r.ifmode := by
  unfold writeDataEffect writeDdEffect at h
  split at h
  · split at h
    · cases h; rfl
    · cases h
  · cases h; rfl
  · cases h

/-- 4-bit framing stays, unless the byte is a function set with DL = 1 (R110, R210). -/
theorem rxExec_keeps_m4h {rs : Bool} {b : Byte} {s t : State} (h : rxExec rs b s = .next t)
    (keeps : rs = true ∨ hi b ≠ 3) (m4h : s.rx.ifmode = some .m4h) : t.rx.ifmode = some .m4h := by
  cases rs with
  | true =>
    rw [rxExec_eq_exec, decodeBus_write, exec_writeData] at h
    obtain ⟨-, r, hr, rfl⟩ := rxTransfer_cases h
    exact (writeDataEffect_framing hr).trans m4h
  | false =>
    obtain ⟨-, two, other⟩ := rxExec_instruction_framing h
    by_cases hb : hi b = 2
    · exact two hb
    · exact (other (keeps.resolve_left (by decide)) hb).trans m4h

/-- R156: the receiver is ready again a byte's execution time after its edge. -/
theorem xend_of_rxExec {rs : Bool} {b : Byte} {u t : State} {τ d : Nat} (h : rxExec rs b u = .next t) (now : u.now = τ)
    (fast : Config.rExec rs b ≤ d) : t.rx.xend ≤ τ + d := by
  rw [(rxExec_frame h).2.1, now]
  exact Nat.add_le_add_left fast τ

/-! ### The framing before an edge -/

/-- The framing in which an edge finds the receiver (R49, R110, R155): unknown before the first pulse, converging to 8-bit
framing by the third, then byte by byte. -/
def Edge.framed (e : Edge) (s : State) : Prop :=
  match e with
  | .pulse1 => True
  | .pulse2 => s.rx.ifmode = some .m8 ∨ s.rx.ifmode = some .m4h ∨ midByte s 3
  | .pulse3 => s.rx.ifmode = some .m8 ∨ midByte s 3
  | .switch => s.rx.ifmode = some .m8
  | .high => s.rx.ifmode = some .m4h
  | .low => midByte s (hi s.reqByte)

/-- Inside a schedule the framing is that of the edge to come. -/
theorem framingFits_iff_framed {s : State} (inside : s.sched ≠ .none) : framingFits s ↔ (nextEdge s).framed s := by
  unfold framingFits nextEdge edgeAt
  cases hs : s.sched with
  | none => exact absurd hs inside
  | tx => simp only; split_ifs <;> rfl
  | init => simp only; split_ifs <;> rfl

theorem framingFits_none_iff {s : State} (outside : s.sched = .none) :
    framingFits s ↔ (s.fsm = .ready → s.rx.ifmode = some .m4h) := by
  simp only [framingFits, outside]

/-- The framing depends on the receiver, and half-way through a byte on REQ_BYTE. -/
theorem Edge.framed_congr {e : Edge} {s t : State} (framed : e.framed s) (rx : t.rx = s.rx)
    (reqByte : e = .low → t.reqByte = s.reqByte) : e.framed t := by
  cases e with
  | low => simpa only [Edge.framed, midByte, rx, reqByte rfl] using framed
  | pulse1 => trivial
  | _ => simpa only [Edge.framed, midByte, rx] using framed

/-! ### What an edge makes of the receiver -/

/-- R153: in 4-bit framing at a byte boundary the nibble is stored, and nothing is executed. -/
theorem latch_in_m4h {rs : Bool} {n : Nibble} {s t : State} (m4h : s.rx.ifmode = some .m4h)
    (h : rxLatch rs n s = .next t) : midByte t n ∧ t.rx.xend = s.rx.xend := by
  rw [rxLatch_m4h m4h] at h
  cases h
  exact ⟨⟨rfl, rfl⟩, rfl⟩

/-- R154: in 8-bit framing a byte with the nibble as its high half is executed. -/
theorem latch_in_m8 {rs : Bool} {n : Nibble} {s t : State} (m8 : s.rx.ifmode = some .m8) (h : rxLatch rs n s = .next t) :
    ∃ x u, u.now = s.now ∧ rxExec rs (byteOf n x) u = .next t := by
  rw [rxLatch_m8 m8] at h
  exact ⟨_, { s with draws := s.draws + 1 }, rfl, h⟩

/-- R153: half-way through a byte the byte is completed and executed, from 4-bit framing at a byte boundary. -/
theorem latch_in_midByte {rs : Bool} {x n : Nibble} {s t : State} (mid : midByte s x) (h : rxLatch rs n s = .next t) :
    ∃ u, u.now = s.now ∧ u.rx.ifmode = some .m4h ∧ rxExec rs (byteOf x n) u = .next t := by
  obtain ⟨m4l, nibhi⟩ := mid
  rw [rxLatch_m4l m4l nibhi] at h
  exact ⟨{ s with rx := { s.rx with ifmode := some .m4h } }, rfl, rfl, h⟩

section

variable {s t : State} {d : Nat} (fast : ∀ x : Nibble, Config.rExec false (byteOf 3 x) ≤ d)
  (h : rxLatch false 3 s = .next t)

include fast h

/-- R155: a pulse of nibble 3 leaves 8-bit framing where it finds it. -/
theorem three_in_m8 (m8 : s.rx.ifmode = some .m8) : t.rx.ifmode = some .m8 ∧ t.rx.xend ≤ s.now + d := by
  obtain ⟨x, u, now, exec⟩ := latch_in_m8 m8 h
  exact ⟨(rxExec_instruction_framing exec).1 (hi_byteOf 3 x), xend_of_rxExec exec now (fast x)⟩

/-- R155: a second pulse of nibble 3 in 4-bit framing completes the function set 0x33. -/
theorem three_in_midByte (mid : midByte s 3) : t.rx.ifmode = some .m8 ∧ t.rx.xend ≤ s.now + d := by
  obtain ⟨u, now, -, exec⟩ := latch_in_midByte mid h
  exact ⟨(rxExec_instruction_framing exec).1 (hi_byteOf 3 3), xend_of_rxExec exec now (fast 3)⟩

end

/-- R155: the first pulse finds any framing, and may complete any byte with low half 3. -/
theorem first_pulse {s t : State} {d : Nat} (fast : ∀ x : Nibble, Config.rExec false (byteOf 3 x) ≤ d)
    (fastPair : ∀ x : Nibble, Config.rExec false (byteOf x 3) ≤ d) (ready : s.rx.xend ≤ s.now)
    (h : rxLatch false 3 s = .next t) :
    (t.rx.ifmode = some .m8 ∨ t.rx.ifmode = some .m4h ∨ midByte t 3) ∧ t.rx.xend ≤ s.now + d := by
  obtain ⟨f, -, case⟩ := rxLatch_instruction_cases h
  cases f with
  | m8 =>
    obtain ⟨x, u, -, -, now, exec⟩ := case
    exact ⟨.inl ((rxExec_instruction_framing exec).1 (hi_byteOf 3 x)), xend_of_rxExec exec now (fast x)⟩
  | m4h =>
    have stored : t.rx = { s.rx with ifmode := some .m4l, nibhi := some 3 } := case
    refine ⟨.inr (.inr ⟨by rw [stored], by rw [stored]⟩), ?_⟩
    rw [stored]
    exact ready.trans (Nat.le_add_right _ _)
  | m4l =>
    obtain ⟨x, u, -, rx, now, exec⟩ := case
    refine ⟨?_, xend_of_rxExec exec now (fastPair x)⟩
    by_cases three : hi (byteOf x 3) = 3
    · exact .inl ((rxExec_instruction_framing exec).1 three)
    · exact .inr (.inl (rxExec_keeps_m4h exec (.inr three) (by rw [rx])))

/-- The edge takes the receiver to the framing of the next, and the receiver is ready again within the wait after it. -/
theorem framed_latch {e : Edge} {s t : State} (enough : SettleSuffices s.cfg) (framed : e.framed s)
    (ready : s.rx.xend ≤ s.now) (lineD : s.lineD = e.nibble.value s) (pulse : e.isByte = false → s.lineRs = false)
    (byte : e = .low → s.lineRs = s.reqRs ∧ (s.reqRs = true ∨ hi s.reqByte ≠ 3)
      ∧ s.settle = settleOf s.cfg.longSet s.reqRs s.reqByte)
    (h : rxLatch s.lineRs s.lineD s = .next t) : e.next.framed t ∧ t.rx.xend ≤ s.now + e.wait.value s := by
  have later : ∀ d, s.rx.xend ≤ s.now + d := fun d => ready.trans (Nat.le_add_right _ _)
  have reqByte : t.reqByte = s.reqByte := by rw [rxLatch_frame h]
  rw [lineD] at h
  cases e with
  | pulse1 =>
    rw [pulse rfl] at h
    exact first_pulse enough.boot1 enough.boot1Pair ready h
  | pulse2 =>
    rw [pulse rfl] at h
    obtain m8 | m4h | mid := framed
    · exact (three_in_m8 enough.boot2 h m8).imp_left .inl
    · obtain ⟨mid, same⟩ := latch_in_m4h m4h h
      exact ⟨.inr mid, same ▸ later _⟩
    · exact (three_in_midByte enough.boot2 h mid).imp_left .inl
  | pulse3 =>
    rw [pulse rfl] at h
    obtain m8 | mid := framed
    · exact three_in_m8 enough.boot3 h m8
    · exact three_in_midByte enough.boot3 h mid
  | switch =>
    rw [pulse rfl] at h
    obtain ⟨x, u, now, exec⟩ := latch_in_m8 framed h
    exact ⟨(rxExec_instruction_framing exec).2.1 (hi_byteOf 2 x), xend_of_rxExec exec now (enough.switch x)⟩
  | high =>
    obtain ⟨mid, same⟩ := latch_in_m4h framed h
    exact ⟨(congrArg (fun b => midByte t (hi b)) reqByte).mpr mid, same ▸ later _⟩
  | low =>
    obtain ⟨lineRs, keeps, settle⟩ := byte rfl
    obtain ⟨u, now, m4h, exec⟩ := latch_in_midByte framed h
    have formed : byteOf (hi s.reqByte) (Edge.low.nibble.value s) = s.reqByte := byteOf_hi_lo s.reqByte
    rw [formed, lineRs] at exec
    have fast : Config.rExec s.reqRs s.reqByte ≤ settleTime s.cfg s.settle := settle ▸ enough.transfer _ _
    exact ⟨rxExec_keeps_m4h exec keeps m4h, xend_of_rxExec exec now fast⟩

/-! ### The byte a transfer forms -/

/-- R175: the falling edge at TX step 12 completes {REQ_RS, REQ_BYTE}. -/
theorem doELo_at_second_edge {s : State} (block : BlockInv s) (schedule : ScheduleInv s) (framing : framingFits s)
    (tx : s.sched = .tx) (twelve : s.step = 12) :
    doELo s = exec (decodeBus (busWord s.reqRs s.reqByte)) { dropE s with rx := { s.rx with ifmode := some .m4h } } := by
  have at_pc : s.sched.steps[s.step]? = some .eLo := by rw [tx, twelve]; rfl
  have low : nextEdge s = .low := by rw [nextEdge, opsDone, tx, twelve]; rfl
  have lineD := lineD_at_edge block schedule at_pc
  have mid := (framingFits_iff_framed (by rw [tx]; decide)).mp framing
  rw [low] at lineD mid
  obtain ⟨m4l, nibhi⟩ : (dropE s).rx.ifmode = some .m4l ∧ (dropE s).rx.nibhi = some (hi s.reqByte) := mid
  have formed : byteOf (hi s.reqByte) (Edge.low.nibble.value s) = s.reqByte := byteOf_hi_lo s.reqByte
  rw [doELo, if_pos (driven_at_eLo block at_pc), rxLatch_m4l m4l nibhi, lineRs_at_edge_tx block schedule at_pc tx, lineD,
    formed, rxExec_eq_exec, dropE_rx]

/-- R197: power is applied only outside a schedule and outside READY, where the framing is of no account. -/
theorem outside_of_not_initAccepted {s : State} (block : BlockInv s) (notAccepted : initAccepted s = false) :
    s.sched = .none ∧ s.fsm ≠ .ready := by
  have r34 := r34_of_blockInv block
  refine ⟨?_, fun ready => by rw [initAccepted, ready] at notAccepted; cases notAccepted⟩
  by_contra inside
  obtain fsm | fsm | fsm := r34.a inside <;> rw [initAccepted, fsm] at notAccepted <;> cases notAccepted

theorem framingFits_envTurn {s t : State} (block : BlockInv s) (framing : framingFits s) (h : envTurn s = .next t) :
    framingFits t := by
  obtain ⟨frame, ⟨-, same⟩ | ⟨notAccepted, -⟩⟩ := envTurn_frame h
  · rw [frame, same]
    exact framing
  · obtain ⟨outside, notReady⟩ := outside_of_not_initAccepted block notAccepted
    have sched : t.sched = s.sched := by rw [frame]
    have fsm : t.fsm = s.fsm := by rw [frame]
    exact (framingFits_none_iff (sched.trans outside)).mpr fun ready => absurd (fsm.symm.trans ready) notReady

/-- Settles O56: at TX step 12 the step is the falling edge, which completes the transfer's byte. -/
theorem transferReachesReceiver : Obligations.TransferReachesReceiver := by
  intro s u block schedule receiver tx twelve env legal noReset
  have frame := (envTurn_frame env).1
  have tx' : u.sched = .tx := by rw [frame]; exact tx
  have twelve' : u.step = 12 := by rw [frame]; exact twelve
  have reqRs : u.reqRs = s.reqRs := by rw [frame]
  have reqByte : u.reqByte = s.reqByte := by rw [frame]
  have edge := doELo_at_second_edge (blockInv_envTurn block env) (scheduleInv_envTurn schedule env)
    (framingFits_envTurn block receiver.framing env) tx' twelve'
  have run : step s = runPhase (.whole .eLo) u :=
    stepRunsSchedule.2 s u .eLo env legal noReset (by rw [tx', twelve']; rfl) (by simp [nibbleAt, tx'])
  rw [run, ← reqRs, ← reqByte, ← edge]
  rfl

end Sys2Proof.Proofs
end

section
/-! Proofs about the receiver's readiness (spec/41_nibble_transfer.md R110, R111, 44_instruction_bytes.md R155, R173,
60_exceptions.md R210): every step keeps the framing in step with the schedule and the receiver ready by the next falling
edge. -/

namespace Sys2Proof.Proofs

open Sys2Proof.Machine Sys2Proof.Laws Sys2Proof.Safety

/-! ### Requests to come -/

/-- No request at the port, of the client or of the host changes the framing (R210). -/
structure RequestsKeepFraming (s : State) : Prop where
  port : s.reqValid = true → keepsFraming s.reqWord = true
  client : ∀ w ∈ s.client, keepsFraming w = true
  host : ∀ m ∈ s.host, moveKeepsFraming m = true

theorem requests_of_receiverInv {s : State} (inv : ReceiverInv s) : RequestsKeepFraming s :=
  ⟨inv.port, inv.client, inv.host⟩

theorem requests_clientTurn {s : State} (requests : RequestsKeepFraming s) : RequestsKeepFraming (clientTurn s) := by
  obtain same | ⟨w, rest, -, -, list, -, presented⟩ := clientTurn_cases s
  · rw [same]
    exact ⟨requests.port, requests.client, requests.host⟩
  · rw [presented]
    obtain ⟨first, others⟩ := List.forall_mem_cons.mp (list ▸ requests.client)
    exact ⟨fun _ => first, others, requests.host⟩

theorem requests_hostMove {m : HostMove} {s t : State} (requests : RequestsKeepFraming s)
    (keeps : moveKeepsFraming m = true) (h : hostMove m s = .next t) : RequestsKeepFraming t := by
  obtain ⟨port, client, host⟩ := requests
  cases m with
  | idle => cases h; exact ⟨port, client, host⟩
  | setRst level => cases h; exact ⟨port, client, host⟩
  | applyPower =>
    simp only [hostMove] at h
    split at h
    · cases h
    · cases h; exact ⟨port, client, host⟩
  | drive w => cases h; exact ⟨fun _ => keeps, client, host⟩
  | withdraw => cases h; exact ⟨fun valid => (nomatch valid), client, host⟩

theorem requests_envTurn {s t : State} (requests : RequestsKeepFraming s) (h : envTurn s = .next t) :
    RequestsKeepFraming t := by
  obtain ⟨port, client, host⟩ := requests
  cases moves : s.host with
  | nil =>
    rw [envTurn_no_host moves] at h
    cases h
    exact requests_clientTurn ⟨port, client, host⟩
  | cons m rest =>
    rw [envTurn, moves] at h
    obtain ⟨u, move, presented⟩ := andThen_eq_next h
    cases presented
    obtain ⟨keeps, others⟩ := List.forall_mem_cons.mp (moves ▸ host)
    have requests : RequestsKeepFraming { endEmit s with host := rest } := ⟨port, client, others⟩
    exact requests_clientTurn (requests_hostMove requests keeps move)

/-- R210: an accepted CMD leaves 4-bit framing alone. -/
theorem hi_ne_three_of_keepsFraming {w : ReqWord} {b : Byte} (keeps : keepsFraming w = true)
    (decoded : decodeReq w = .cmd b) : hi b ≠ 3 := by
  simpa [keepsFraming, decoded] using keeps

/-! ### The environment's turn, a reset, and time outside a schedule -/

/-- The least time to the next edge depends on pc, the wait in progress, the configuration and SETTLE. -/
theorem timeToLatch_congr {s t : State} (sched : t.sched = s.sched) (step : t.step = s.step)
    (waitFrom : t.waitFrom = s.waitFrom) (waitRem : t.waitRem = s.waitRem) (cfg : t.cfg = s.cfg)
    (settle : t.settle = s.settle) : timeToLatch t = timeToLatch s := by
  have least : ∀ ops, leastTime t ops = leastTime s ops := fun _ => leastTime_congr cfg fun _ => settle
  simp only [timeToLatch, sched, step, waitFrom, waitRem, least]

theorem receiverInv_envTurn {s t : State} (block : BlockInv s) (inv : ReceiverInv s) (h : envTurn s = .next t) :
    ReceiverInv t := by
  obtain ⟨port, client, host⟩ := requests_envTurn (requests_of_receiverInv inv) h
  have framing := framingFits_envTurn block inv.framing h
  obtain ⟨frame, power⟩ := envTurn_frame h
  have now : t.now = s.now := by rw [frame]
  have time : timeToLatch t = timeToLatch s := by
    refine timeToLatch_congr ?_ ?_ ?_ ?_ ?_ ?_ <;> rw [frame]
  have powered : t.powerUp ≤ t.now := by
    rw [now]
    obtain ⟨same, -⟩ | ⟨-, same, -⟩ := power <;> rw [same]
    exact inv.powered
  have sched : t.sched = s.sched := by rw [frame]
  have fsm : t.fsm = s.fsm := by rw [frame]
  have ready : t.sched ≠ .none ∨ t.fsm = .ready → t.rx.xend ≤ t.now + timeToLatch t := by
    rw [now, time, sched, fsm]
    intro expected
    obtain ⟨-, same⟩ | ⟨notAccepted, -⟩ := power
    · rw [same]
      exact inv.ready expected
    · obtain ⟨outside, notReady⟩ := outside_of_not_initAccepted block notAccepted
      exact absurd expected (by simp [outside, notReady])
  refine ⟨framing, ready, powered, port, client, host, ?_, ?_⟩
  · rw [frame]; exact inv.transfer
  · rw [frame]; exact inv.settle

theorem receiverInv_holdReset {s : State} (inv : ReceiverInv s) : ReceiverInv (holdReset s) :=
  { inv with
    framing := fun ready => nomatch ready
    ready := fun expected => absurd expected (by simp)
    powered := inv.powered.trans (Nat.le_add_right _ _)
    transfer := fun tx => nomatch tx
    settle := fun inside => absurd inside (by simp) }

theorem ready_elapse {s : State} (ready : s.rx.xend ≤ s.now + timeToLatch s) :
    (elapse s).rx.xend ≤ (elapse s).now + timeToLatch (elapse s) := by
  have time : timeToLatch (elapse s) = timeToLatch s := timeToLatch_congr rfl rfl rfl rfl rfl rfl
  rw [time, elapse_now, elapse_rx]
  exact ready.trans (by omega)

theorem receiverInv_elapse {s : State} (inv : ReceiverInv s) : ReceiverInv (elapse s) :=
  { inv with
    ready := fun expected => ready_elapse (inv.ready expected)
    powered := inv.powered.trans (Nat.le_add_right _ _) }

/-! ### An accepted request -/

/-- R33, R118: an undriven receiver is ready within the power-up wait, which comes before the first pulse. -/
theorem ready_startInit {s : State} (legal : configLegal s.cfg = true) (block : BlockInv s) (outside : s.sched = .none)
    (fsm : s.fsm = .uninit) (powered : s.powerUp ≤ s.now) : s.rx.xend ≤ s.now + timeToLatch (startInit s) := by
  have released : s.oe = false := ((oeFits_none_iff outside).mp block.oe).1 fsm
  have floor : powerUpTime ≤ s.cfg.tPowerup := ((configLegal_iff s.cfg).mp legal).1
  have waits : s.cfg.tPowerup ≤ timeToLatch (startInit s) := by
    have before_pulse : .powerup ∈ waitsToEdge initSchedule := by decide
    rw [timeToLatch, startInit_waitFrom, waitFrom_of_outside block outside]
    exact value_le_leastTime (s := startInit s) before_pulse
  have xend : s.rx.xend = s.powerUp + powerUpTime := by rw [block.undriven released]; rfl
  omega

theorem receiverInv_startInit {s : State} (legal : configLegal s.cfg = true) (block : BlockInv s)
    (outside : s.sched = .none) (fsm : s.fsm = .uninit) (inv : ReceiverInv s) : ReceiverInv (startInit s) :=
  have ready : s.rx.xend ≤ s.now + timeToLatch (startInit s) := ready_startInit legal block outside fsm inv.powered
  { inv with
    framing := trivial
    ready := fun _ => ready
    transfer := fun tx => nomatch tx
    settle := fun inside => absurd inside (by simp) }

/-- With no schedule there is nothing to wait for. -/
theorem ready_outside {s : State} (block : BlockInv s) (outside : s.sched = .none)
    (ready : s.rx.xend ≤ s.now + timeToLatch s) : s.rx.xend ≤ s.now := by
  have nothing : timeToLatch s = 0 := by
    simp [timeToLatch, waitFrom_of_outside block outside, outside, Sched.steps, leastTime]
  rwa [nothing] at ready

/-- R100, R101, R110: in READY the receiver is at a byte boundary and not busy. -/
theorem receiverInv_startTx {s : State} (fsm : s.fsm = .ready) (outside : s.sched = .none) (block : BlockInv s)
    (inv : ReceiverInv s) {rs : Bool} {b : Byte} (keeps : rs = true ∨ hi b ≠ 3) : ReceiverInv (startTx rs b s) :=
  have ready_now : s.rx.xend ≤ s.now := ready_outside block outside (inv.ready (.inr fsm))
  { inv with
    framing := (framingFits_none_iff outside).mp inv.framing fsm
    ready := fun _ => ready_now.trans (Nat.le_add_right _ _)
    transfer := fun _ => keeps
    settle := fun _ => rfl }

theorem receiverInv_takeFault {s : State} (inv : ReceiverInv s) (c : FaultCode) : ReceiverInv (takeFault c s) :=
  { inv with
    framing := fun ready => nomatch ready
    ready := fun expected => absurd expected (by simp)
    transfer := fun tx => nomatch tx
    settle := fun inside => absurd inside (by simp) }

/-- The port is free once its request is accepted. -/
theorem receiverInv_portFree {s : State} (inv : ReceiverInv s) : ReceiverInv { s with reqValid := false } :=
  have time : timeToLatch { s with reqValid := false } = timeToLatch s := timeToLatch_congr rfl rfl rfl rfl rfl rfl
  { inv with
    ready := time ▸ inv.ready
    port := fun valid => nomatch valid }

theorem receiverInv_request {s t : State} (legal : configLegal s.cfg = true) (block : BlockInv s) (inv : ReceiverInv s)
    (accepts : s.accepts = true) (h : exec (decodeReq s.reqWord) { s with reqValid := false } = .next t) :
    ReceiverInv t := by
  obtain ⟨valid, outside, -, -⟩ := accepts_iff.mp accepts
  have keeps := inv.port valid
  have block' : BlockInv { s with reqValid := false } :=
    ⟨block.stepInRange, block.fsm, block.oe, block.lineE, block.waiting, block.noWait, block.fcode, block.undriven⟩
  have inv' := receiverInv_portFree inv
  obtain ⟨-, fsm, e⟩ | ⟨b, cmd, fsm, e⟩ | ⟨b, -, fsm, e⟩ | ⟨c, -, e⟩ :=
    request_cases s.reqWord { s with reqValid := false }
  · cases e.symm.trans h
    exact receiverInv_startInit legal block' outside fsm inv'
  · cases e.symm.trans h
    exact receiverInv_startTx fsm outside block' inv' (.inr (hi_ne_three_of_keepsFraming keeps cmd))
  · cases e.symm.trans h
    exact receiverInv_startTx fsm outside block' inv' (.inl rfl)
  · cases e.symm.trans h
    exact receiverInv_takeFault inv' c

/-! ### A micro-operation -/

/-- The framing and the readiness of a state in which micro-operation m of s is over, STEP not yet advanced. -/
structure ReceiverDone (m : Micro) (s u : State) : Prop where
  framed : (edgeAt s.sched (edges (opsDone s ++ [m]))).framed u
  ready : u.rx.xend ≤ u.now + leastTime u (s.sched.steps.drop (s.step + 1))

theorem microEffect_cfg {m : Micro} {s u : State} (h : microEffect m s = .next u) : u.cfg = s.cfg := by
  have run : runPhase (.whole m) s = .next (elapse (advance u)) := by rw [runPhase, h]; rfl
  exact (runPhase_fixed run).1

/-- A micro-operation that is no WAIT and no falling edge counts for no time. -/
theorem leastTime_cons {m : Micro} (noWait : isWait m = false) (noEdge : m ≠ .eLo) (s : State) (rest : List Micro) :
    leastTime s (m :: rest) = leastTime s rest := by
  cases m with
  | wait w => cases noWait
  | eLo => exact absurd rfl noEdge
  | _ => rfl

theorem drop_eq_cons {c : Sched} {k : Nat} {m : Micro} (at_pc : c.steps[k]? = some m) :
    c.steps.drop k = m :: c.steps.drop (k + 1) := by
  obtain ⟨inside, rfl⟩ := List.getElem?_eq_some_iff.mp at_pc
  exact List.drop_eq_getElem_cons inside

/-- With no wait in progress the receiver is ready by the next edge from the present on. -/
theorem ready_at_pc {m : Micro} {s : State} (receiver : ReceiverInv s) (at_pc : s.sched.steps[s.step]? = some m)
    (idle : s.waitFrom = none) : s.rx.xend ≤ s.now + leastTime s (m :: s.sched.steps.drop (s.step + 1)) := by
  have inside := inside_of_at_pc at_pc
  have ready := receiver.ready (.inl inside)
  rw [timeToLatch, idle] at ready
  rw [← drop_eq_cons at_pc]
  exact ready

/-- Pulses come with RS = 0; the halves of a byte come with REQ_RS, SETTLE is that byte's, and the byte leaves 4-bit framing
alone (R102, R103, R117, R210). -/
theorem request_at_edge {s : State} (block : BlockInv s) (schedule : ScheduleInv s) (receiver : ReceiverInv s)
    (at_pc : s.sched.steps[s.step]? = some .eLo) :
    ((nextEdge s).isByte = false → s.lineRs = false)
      ∧ ((nextEdge s).isByte = true → s.lineRs = s.reqRs ∧ (s.reqRs = true ∨ hi s.reqByte ≠ 3)
        ∧ s.settle = settleOf s.cfg.longSet s.reqRs s.reqByte) := by
  have isByte : (nextEdge s).isByte = decide (s.sched = .tx ∨ 33 < s.step) := isByte_at_edge at_pc
  cases hs : s.sched with
  | none => rw [hs] at at_pc; cases at_pc
  | tx =>
    rw [isByte, decide_eq_true (.inl hs)]
    exact ⟨fun h => (nomatch h), fun _ => ⟨lineRs_at_edge_tx block schedule at_pc hs, receiver.transfer hs,
      receiver.settle (.inl hs)⟩⟩
  | init =>
    obtain ⟨low, loaded⟩ := lines_at_edge_init block schedule at_pc hs
    refine ⟨fun _ => low, fun byte => ?_⟩
    have late : 33 < s.step := (of_decide_eq_true (isByte.symm.trans byte)).resolve_left (by rw [hs]; decide)
    obtain ⟨reqRs, keeps⟩ := loaded late
    exact ⟨low.trans reqRs.symm, .inr keeps, receiver.settle (.inr ⟨hs, late⟩)⟩

/-- A falling edge: the receiver is ready when it comes, and ready again by the next. -/
theorem receiverDone_eLo {s u : State} (enough : SettleSuffices s.cfg) (block : BlockInv s) (schedule : ScheduleInv s)
    (receiver : ReceiverInv s) (at_pc : s.sched.steps[s.step]? = some .eLo) (h : doELo s = .next u) :
    ReceiverDone .eLo s u := by
  have inside := inside_of_at_pc at_pc
  have framed : (nextEdge s).framed (dropE s) :=
    Edge.framed_congr ((framingFits_iff_framed inside).mp receiver.framing) rfl fun _ => rfl
  have ready : s.rx.xend ≤ s.now := ready_at_pc receiver at_pc (waitFrom_of_micro block at_pc rfl)
  have lineD := lineD_at_edge block schedule at_pc
  obtain ⟨pulse, byte⟩ := request_at_edge block schedule receiver at_pc
  have frame : u = { dropE s with rx := u.rx, draws := u.draws } := doELo_frame h
  have now : u.now = s.now := by rw [frame]; rfl
  have least : leastTime u (s.sched.steps.drop (s.step + 1)) = leastTime s (s.sched.steps.drop (s.step + 1)) :=
    leastTime_congr (by rw [frame]; rfl) fun _ => by rw [frame]; rfl
  have wait : (nextEdge s).wait.value s ≤ leastTime s (s.sched.steps.drop (s.step + 1)) :=
    value_le_leastTime (wait_after_edge at_pc)
  rw [doELo, if_pos (driven_at_eLo block at_pc)] at h
  obtain ⟨framed', xend⟩ := framed_latch (s := dropE s) enough framed ready lineD pulse
    (fun low => byte (by rw [low]; rfl)) h
  have next : edgeAt s.sched (edges (opsDone s ++ [.eLo])) = (nextEdge s).next := by
    rw [edges_concat_eLo]
    exact edgeAt_succ at_pc
  refine ⟨next ▸ framed', ?_⟩
  rw [now, least]
  exact xend.trans (Nat.add_le_add_left wait s.now)

/-- A micro-operation that is no WAIT and no falling edge leaves the receiver alone; and a LOAD comes between two bytes and
before any settle wait. -/
theorem receiverDone_quiet {m : Micro} {s u : State} (block : BlockInv s) (receiver : ReceiverInv s)
    (at_pc : s.sched.steps[s.step]? = some m) (noWait : isWait m = false) (noEdge : m ≠ .eLo)
    (h : microEffect m s = .next u) : ReceiverDone m s u := by
  have inside := inside_of_at_pc at_pc
  have framed : (nextEdge s).framed s := (framingFits_iff_framed inside).mp receiver.framing
  have rx : u.rx = s.rx := microEffect_rx h noEdge
  have now : u.now = s.now := (microEffect_instant h noWait).2.1
  have ready := ready_at_pc receiver at_pc (waitFrom_of_micro block at_pc noWait)
  have reqByte : nextEdge s = .low → u.reqByte = s.reqByte := fun low => by
    cases load : isLoad m with
    | false => exact (microEffect_request h load).2.1
    | true => exact nomatch low.symm.trans (load_place at_pc load).1
  have settle : .settle ∈ waitsToEdge (s.sched.steps.drop (s.step + 1)) → u.settle = s.settle := fun before => by
    cases load : isLoad m with
    | false => exact (microEffect_request h load).2.2
    | true => exact absurd before (load_place at_pc load).2
  refine ⟨?_, ?_⟩
  · rw [edges_concat _ noEdge]
    exact Edge.framed_congr framed rx reqByte
  · rw [rx, now, leastTime_congr (microEffect_cfg h) settle, ← leastTime_cons noWait noEdge]
    exact ready

/-- A WAIT that ends has let the time pass that it still owed. -/
theorem receiverDone_waitEnd {w : WaitOperand} {s : State} (receiver : ReceiverInv s)
    (at_pc : s.sched.steps[s.step]? = some (.wait w)) (waiting : s.waitFrom ≠ none) (t : Nat) :
    ReceiverDone (.wait w) s (waitEnd t s) := by
  have inside := inside_of_at_pc at_pc
  have framed : (nextEdge s).framed s := (framingFits_iff_framed inside).mp receiver.framing
  obtain ⟨t0, from_t0⟩ := Option.ne_none_iff_exists'.mp waiting
  have ready : s.rx.xend ≤ s.now + (s.waitRem + leastTime s (s.sched.steps.drop (s.step + 1))) := by
    have ready := receiver.ready (.inl inside)
    rwa [timeToLatch, from_t0] at ready
  refine ⟨?_, ?_⟩
  · rw [edges_concat (m := .wait w) _ fun edge => nomatch edge]
    exact Edge.framed_congr framed rfl fun _ => rfl
  · have least := leastTime_congr (s := s) (t := waitEnd t s) (ops := s.sched.steps.drop (s.step + 1)) rfl fun _ => rfl
    rw [least, waitEnd_rx, waitEnd_now]
    omega

/-- When STEP advances, framing and readiness are those of the next pc; at the end of a schedule the receiver is at a byte
boundary, and ready. -/
theorem receiver_advance {m : Micro} {s u : State} (at_pc : s.sched.steps[s.step]? = some m) (done : ReceiverDone m s u)
    (sched : u.sched = s.sched) (step : u.step = s.step) (idle : u.waitFrom = none) :
    framingFits (advance u) ∧ u.rx.xend ≤ u.now + timeToLatch (advance u) := by
  have inside := inside_of_at_pc at_pc
  have framed : (edgeAt s.sched (edges (opsDone s ++ [m]))).framed (advance u) :=
    Edge.framed_congr done.framed rfl fun _ => rfl
  have least : leastTime (advance u) (s.sched.steps.drop (s.step + 1)) = leastTime u (s.sched.steps.drop (s.step + 1)) :=
    leastTime_congr rfl fun _ => rfl
  have sched' : (advance u).sched = (advance s).sched := by rw [advance_sched, advance_sched, sched, step]
  have step' : (advance u).step = (advance s).step := by rw [advance_step, advance_step, sched, step]
  have ready := done.ready
  rw [← least] at ready
  obtain ⟨same, next, ops⟩ | ⟨ended, ops⟩ := opsDone_advanced at_pc sched' step'
  · rw [← ops, ← same] at framed
    refine ⟨(framingFits_iff_framed (same ▸ inside)).mpr framed, ?_⟩
    rw [timeToLatch, advance_waitFrom, idle, same, next]
    exact ready
  · rw [← ops, edgeAt_end inside] at framed
    have last : s.sched.steps.drop (s.step + 1) = [] := by
      rw [ops, opsDone, ← take_succ_eq_concat at_pc]
      exact List.drop_eq_nil_of_le (List.length_take_le _ _)
    rw [last] at ready
    exact ⟨(framingFits_none_iff ended).mpr fun _ => framed, ready.trans (Nat.add_le_add_left (Nat.zero_le _) _)⟩

/-- A WAIT that begins owes all it asks for, less the time that has passed. -/
theorem receiver_waitBegin {w : WaitOperand} {s : State} (receiver : ReceiverInv s)
    (at_pc : s.sched.steps[s.step]? = some (.wait w)) (idle : s.waitFrom = none) :
    s.rx.xend ≤ (waitBegin (w.value s) s).now + timeToLatch (waitBegin (w.value s) s) := by
  have ready := ready_at_pc receiver at_pc idle
  have least := leastTime_congr (s := s) (t := waitBegin (w.value s) s) (ops := s.sched.steps.drop (s.step + 1)) rfl
    fun _ => rfl
  rw [leastTime] at ready
  simp only [timeToLatch, waitBegin_waitFrom, waitBegin_sched, waitBegin_step, waitBegin_waitRem, waitBegin_now, least]
  omega

/-- A due phase keeps framing and readiness. -/
theorem receiver_duePhase {m : Micro} {s t : State} (enough : SettleSuffices s.cfg) (block : BlockInv s)
    (schedule : ScheduleInv s) (receiver : ReceiverInv s) (at_pc : s.sched.steps[s.step]? = some m)
    (h : runPhase (m.duePhase s) s = .next t) : framingFits t ∧ t.rx.xend ≤ t.now + timeToLatch t := by
  obtain ⟨w, rfl, idle, rfl⟩ | ⟨w, rfl, waiting, rfl⟩ | ⟨noWait, u, hu, rfl⟩ := duePhase_cases h
  · exact ⟨receiver.framing, receiver_waitBegin receiver at_pc idle⟩
  · exact receiver_advance at_pc (receiverDone_waitEnd receiver at_pc waiting _) rfl rfl rfl
  · have done : ReceiverDone m s u := by
      by_cases edge : m = .eLo
      · subst edge
        exact receiverDone_eLo enough block schedule receiver at_pc hu
      · exact receiverDone_quiet block receiver at_pc noWait edge hu
    have idle := waitFrom_of_micro block at_pc noWait
    have kept := microEffect_done hu noWait idle (block.noWait idle)
    obtain ⟨framing, ready⟩ := receiver_advance at_pc done kept.sched kept.step kept.waitFrom
    exact ⟨framing, ready_elapse ready⟩

/-- A due LOAD settles for the transfer it loads. -/
theorem settle_of_load {m : Micro} {s t : State} (load : isLoad m = true) (h : runPhase (m.duePhase s) s = .next t) :
    t.settle = settleOf t.cfg.longSet t.reqRs t.reqByte := by
  cases m with
  | load rs b => cases h; rfl
  | _ => cases load

/-- R103: TX, and INIT from its first LOAD at step 33 on, settle for the transfer in the data path. -/
theorem settle_duePhase {m : Micro} {s t : State} (receiver : ReceiverInv s) (at_pc : s.sched.steps[s.step]? = some m)
    (h : runPhase (m.duePhase s) s = .next t) (place : t.sched = .tx ∨ (t.sched = .init ∧ 33 < t.step)) :
    t.settle = settleOf t.cfg.longSet t.reqRs t.reqByte := by
  cases load : isLoad m with
  | true => exact settle_of_load load h
  | false =>
    obtain ⟨reqRs, reqByte, settle⟩ := duePhase_request h load
    rw [reqRs, reqByte, settle, (runPhase_fixed h).1]
    refine receiver.settle ?_
    obtain ended | ⟨sched, step⟩ := duePhase_place at_pc h
    · simp [ended] at place
    · rw [sched] at place
      refine place.imp_right fun ⟨init, late⟩ => ⟨init, ?_⟩
      have notFirst : s.step ≠ 33 := fun first => by
        rw [init, first] at at_pc
        cases at_pc
        cases load
      omega

theorem duePhase_later {m : Micro} {s t : State} (h : runPhase (m.duePhase s) s = .next t) : s.now ≤ t.now := by
  obtain ⟨w, rfl, -, rfl⟩ | ⟨w, rfl, -, rfl⟩ | ⟨noWait, u, hu, rfl⟩ := duePhase_cases h
  · exact Nat.le_add_right _ _
  · rw [advance_now, waitEnd_now]
    omega
  · have now := (microEffect_instant hu noWait).2.1
    rw [elapse_now, advance_now]
    omega

theorem receiverInv_duePhase {m : Micro} {s t : State} (enough : SettleSuffices s.cfg) (block : BlockInv s)
    (schedule : ScheduleInv s) (receiver : ReceiverInv s) (at_pc : s.sched.steps[s.step]? = some m)
    (h : runPhase (m.duePhase s) s = .next t) : ReceiverInv t := by
  obtain ⟨framing, ready⟩ := receiver_duePhase enough block schedule receiver at_pc h
  obtain ⟨-, -, valid, word, client, -, host, powerUp, -⟩ := runPhase_fixed h
  refine ⟨framing, fun _ => ready, ?_, ?_, ?_, ?_, fun tx => ?_, settle_duePhase receiver at_pc h⟩
  · exact powerUp.trans_le (receiver.powered.trans (duePhase_later h))
  · rw [valid, word]; exact receiver.port
  · rw [client]; exact receiver.client
  · rw [host]; exact receiver.host
  · obtain ended | ⟨sched, -⟩ := duePhase_place at_pc h
    · exact nomatch ended.symm.trans tx
    · have tx' : s.sched = .tx := sched.symm.trans tx
      have inTx : m ∈ txSchedule := by
        rw [tx'] at at_pc
        exact List.mem_of_getElem? at_pc
      obtain ⟨reqRs, reqByte, -⟩ := duePhase_request h (isLoad_of_tx m inTx)
      rw [reqRs, reqByte]
      exact receiver.transfer tx'

/-! ### The step -/

/-- What each part of a step keeps, under the assumption about the receiver's timing and a legal configuration. -/
structure ReceiverKept (c : Config) (s : State) : Prop where
  cfg : s.cfg = c
  block : BlockInv s
  schedule : ScheduleInv s
  receiver : ReceiverInv s

/-- Settles O54, beside the invariants of the block and of its schedule: an edge finds the receiver ready and in the framing
of its place, and the wait after it lasts as long as what it makes the receiver execute. -/
theorem receiverInvKept : Obligations.ReceiverInvKept := by
  intro s t enough block schedule receiver h
  have legal := configLegal_of_step h
  refine (step_keeps_due (P := ReceiverKept s.cfg) ?env ?reset ?due ?noWait ?request ?time ⟨rfl, block, schedule, receiver⟩
    h).receiver
  case env =>
    exact fun u v kept turn => ⟨(envTurn_cfg turn).trans kept.cfg, blockInv_envTurn kept.block turn,
      scheduleInv_envTurn kept.schedule turn, receiverInv_envTurn kept.block kept.receiver turn⟩
  case reset =>
    exact fun u kept => ⟨kept.cfg, blockInv_holdReset u, .inl rfl, receiverInv_holdReset kept.receiver⟩
  case due =>
    exact fun m u v kept at_pc phase => ⟨(runPhase_fixed phase).1.trans kept.cfg, blockInv_duePhase kept.block at_pc phase,
      (schedule_duePhase kept.block kept.schedule at_pc phase).1,
      receiverInv_duePhase (kept.cfg ▸ enough) kept.block kept.schedule kept.receiver at_pc phase⟩
  case noWait => exact fun u kept => waitFrom_of_fetchNibble kept.block
  case request =>
    intro u v kept accepts accepted
    have start := step_of_request accepted
    exact ⟨(request_fixed accepted).cfg.trans kept.cfg, blockInv_elapse (blockInv_request kept.block accepts accepted),
      scheduleInv_of_start start,
      receiverInv_elapse (receiverInv_request (kept.cfg ▸ legal) kept.block kept.receiver accepts accepted)⟩
  case time =>
    exact fun u kept outside => ⟨kept.cfg, blockInv_elapse kept.block, .inl outside, receiverInv_elapse kept.receiver⟩

end Sys2Proof.Proofs
end

section
/-! Proofs about what the initialization makes of the receiver (spec/42_controller_fsm.md R122-R126, R133): each of its five
bytes is executed at its second falling edge, and what each sets the later ones leave alone. -/

namespace Sys2Proof.Proofs

open Sys2Proof.Machine Sys2Proof.Laws Sys2Proof.Safety

/-! ### The receiver after some falling edges of INIT -/

/-- What the receiver r holds after n falling edges of INIT. -/
structure InitDone (n : Nat) (r : Receiver) : Prop where
  cg : r.mem.cg = []
  func : 6 ≤ n → r.func = some .f28
  cursor : 8 ≤ n → r.cur = some false ∧ r.blink = some false
  cleared : 10 ≤ n → r.target = some .dd ∧ r.ac = some 0 ∧ r.shift = some 0 ∧ r.mem.ddFill = .blank ∧ r.mem.dd = []
  entry : 12 ≤ n → r.entry = some .incNoShift
  disp : 14 ≤ n → r.disp = some true

theorem initFits_iff_initDone {s : State} : initFits s ↔ (s.sched = .init → InitDone (edges (opsDone s)) s.rx) :=
  imp_congr_right fun _ =>
    ⟨fun ⟨cg, func, cursor, cleared, entry, disp⟩ => ⟨cg, func, cursor, cleared, entry, disp⟩,
      fun ⟨cg, func, cursor, cleared, entry, disp⟩ => ⟨cg, func, cursor, cleared, entry, disp⟩⟩

/-- Before the first byte is complete there is only CGRAM to speak of. -/
theorem initDone_early {n : Nat} {r : Receiver} (early : n < 6) (cg : r.mem.cg = []) : InitDone n r where
  cg := cg
  func late := by omega
  cursor late := by omega
  cleared late := by omega
  entry late := by omega
  disp late := by omega

/-- A high half completes no byte: it changes the framing and the nibble held, and nothing else. -/
theorem InitDone.stored {n : Nat} {r : Receiver} (done : InitDone n r) (even : n % 2 = 0) (x : Nibble) :
    InitDone (n + 1) { r with nibhi := some x, ifmode := some .m4l } where
  cg := done.cg
  func late := done.func (by omega)
  cursor late := done.cursor (by omega)
  cleared late := done.cleared (by omega)
  entry late := done.entry (by omega)
  disp late := done.disp (by omega)

/-- The initialization's bytes (R122-R126), each with the falling edges before the one that completes it. -/
def initBytes : List (Nat × Byte) := [(5, 0x28), (7, 0x08), (9, 0x01), (11, 0x06), (13, 0x0C)]

/-- Each byte does its part and leaves what the bytes before it did. -/
theorem InitDone.executed {n : Nat} {b : Byte} {u t : State} (done : InitDone n u.rx) (listed : (n, b) ∈ initBytes)
    (h : rxExec false b u = .next t) : InitDone (n + 1) t.rx := by
  rw [rxExec_eq_exec, decodeBus_instruction] at h
  simp only [initBytes, List.mem_cons, Prod.mk.injEq, List.not_mem_nil, or_false] at listed
  obtain ⟨rfl, rfl⟩ | ⟨rfl, rfl⟩ | ⟨rfl, rfl⟩ | ⟨rfl, rfl⟩ | ⟨rfl, rfl⟩ := listed
  · obtain ⟨-, r, effect, rfl⟩ := rxTransfer_cases ((exec_functionSet u).symm.trans h)
    cases effect
    exact ⟨done.cg, fun _ => rfl, by omega, by omega, by omega, by omega⟩
  · obtain ⟨-, r, effect, rfl⟩ := rxTransfer_cases ((exec_displayControl false false false u).symm.trans h)
    cases effect
    exact ⟨done.cg, fun _ => done.func (by decide), fun _ => ⟨rfl, rfl⟩, by omega, by omega, by omega⟩
  · obtain ⟨-, r, effect, rfl⟩ := rxTransfer_cases ((exec_clearDisplay u).symm.trans h)
    cases effect
    exact ⟨done.cg, fun _ => done.func (by decide), fun _ => done.cursor (by decide), fun _ => ⟨rfl, rfl, rfl, rfl, rfl⟩,
      by omega, by omega⟩
  · obtain ⟨-, r, effect, rfl⟩ := rxTransfer_cases ((exec_entryModeSet u).symm.trans h)
    cases effect
    exact ⟨done.cg, fun _ => done.func (by decide), fun _ => done.cursor (by decide), fun _ => done.cleared (by decide),
      fun _ => rfl, by omega⟩
  · obtain ⟨-, r, effect, rfl⟩ := rxTransfer_cases ((exec_displayControl true false false u).symm.trans h)
    cases effect
    exact ⟨done.cg, fun _ => done.func (by decide), fun _ => ⟨rfl, rfl⟩, fun _ => done.cleared (by decide),
      fun _ => done.entry (by decide), fun _ => rfl⟩

/-! ### The edges of INIT -/

/-- Before the second nibble of the first byte no more than four edges have come. -/
theorem edges_init_early : ∀ k ≤ 37, edges (initSchedule.take k) ≤ 4 := by
  decide +kernel

/-- After the four pulses of INIT the edges are those of bytes (R117). -/
theorem edgeAt_init_late {n : Nat} (late : 4 ≤ n) : edgeAt .init n = if n % 2 = 0 then .high else .low := by
  obtain ⟨h0, h1, h2, h3⟩ : n ≠ 0 ∧ n ≠ 1 ∧ n ≠ 2 ∧ n ≠ 3 := by omega
  simp only [edgeAt, h0, h1, h2, h3, if_false]

/-- The low half of a byte of INIT comes with that byte in REQ_BYTE, whatever stood there before (R117). -/
theorem initByte_at_edge {k : Nat} (at_pc : initSchedule[k]? = some .eLo)
    (low : edgeAt .init (edges (initSchedule.take k)) = .low) (rs0 : Bool) (b0 : Byte) (l0 : Bool) (d0 : Nibble) :
    (edges (initSchedule.take k), (pathAfter rs0 b0 l0 d0 (initSchedule.take k)).reqByte) ∈ initBytes := by
  have places : ∀ k < initSchedule.length, initSchedule[k]? = some .eLo →
      edgeAt .init (edges (initSchedule.take k)) = .low → k = 46 ∨ k = 62 ∨ k = 78 ∨ k = 94 ∨ k = 110 := by
    decide +kernel
  obtain rfl | rfl | rfl | rfl | rfl := places k (List.getElem?_eq_some_iff.mp at_pc).1 at_pc low
  · exact List.getElem_mem (l := initBytes) (n := 0) (by decide)
  · exact List.getElem_mem (l := initBytes) (n := 1) (by decide)
  · exact List.getElem_mem (l := initBytes) (n := 2) (by decide)
  · exact List.getElem_mem (l := initBytes) (n := 3) (by decide)
  · exact List.getElem_mem (l := initBytes) (n := 4) (by decide)

/-- The byte in REQ_BYTE at the low half of a byte of INIT. -/
theorem initByte_at_low {s : State} (schedule : ScheduleInv s) (at_pc : s.sched.steps[s.step]? = some .eLo)
    (init : s.sched = .init) (low : nextEdge s = .low) : (edges (opsDone s), s.reqByte) ∈ initBytes := by
  obtain ⟨rs0, b0, l0, d0, before, on⟩ := exists_onPath schedule (by rw [init]; decide)
  rw [nextEdge, opsDone, init] at low
  rw [init] at at_pc
  rw [on.reqByte, opsDone, init]
  exact initByte_at_edge at_pc low rs0 b0 l0 d0

/-! ### A falling edge -/

/-- With RS = 0 no edge reaches CGRAM (R176). -/
theorem rxLatch_instruction_cg {n : Nibble} {s t : State} (h : rxLatch false n s = .next t) :
    t.rx.mem.cg = s.rx.mem.cg := by
  obtain same | ⟨b, u, same, exec⟩ := rxLatch_mem_cases h
  · rw [same]
  · obtain ⟨f, effect⟩ := rxExec_instruction b
    rw [effect.transfer] at exec
    obtain ⟨-, r, hr, rfl⟩ := rxTransfer_cases exec
    cases hr
    exact (effect.cg u.rx).trans (by rw [same])

section

variable {s u : State} (block : BlockInv s) (schedule : ScheduleInv s) (at_pc : s.sched.steps[s.step]? = some .eLo)
  (h : doELo s = .next u)

include block schedule at_pc h

/-- RS is 0 at every edge of INIT. -/
theorem latch_of_init (init : s.sched = .init) : rxLatch false s.lineD (dropE s) = .next u := by
  rw [doELo, if_pos (driven_at_eLo block at_pc), (lines_at_edge_init block schedule at_pc init).1] at h
  exact h

/-- After the switch the receiver stores a high half and executes with a low half the byte in REQ_BYTE. -/
theorem initDone_eLo (init : s.sched = .init) (framing : framingFits s) (done : InitDone (edges (opsDone s)) s.rx) :
    InitDone (edges (opsDone s) + 1) u.rx := by
  have latch := latch_of_init block schedule at_pc h init
  have cg : u.rx.mem.cg = [] := (rxLatch_instruction_cg latch).trans done.cg
  by_cases early : edges (opsDone s) < 5
  · exact initDone_early (by omega) cg
  have next : nextEdge s = if edges (opsDone s) % 2 = 0 then .high else .low := by
    rw [nextEdge, init]
    exact edgeAt_init_late (by omega)
  have framed : (nextEdge s).framed (dropE s) :=
    Edge.framed_congr ((framingFits_iff_framed (by rw [init]; decide)).mp framing) rfl fun _ => rfl
  by_cases even : edges (opsDone s) % 2 = 0
  · rw [next, if_pos even] at framed
    rw [rxLatch_m4h framed] at latch
    cases latch
    exact done.stored even _
  · rw [if_neg even] at next
    rw [next] at framed
    obtain ⟨m4l, nibhi⟩ : midByte (dropE s) (hi s.reqByte) := framed
    have lineD : s.lineD = lo s.reqByte := (lineD_at_edge block schedule at_pc).trans (by rw [next]; rfl)
    rw [rxLatch_m4l m4l nibhi, lineD, byteOf_hi_lo] at latch
    refine InitDone.executed ?_ (initByte_at_low schedule at_pc init next) latch
    exact ⟨done.cg, done.func, done.cursor, done.cleared, done.entry, done.disp⟩

end

/-! ### The parts of a step -/

/-- Where STEP advances in INIT one more micro-operation is done. -/
theorem initFits_advance {m : Micro} {s u : State} (at_pc : s.sched.steps[s.step]? = some m) (sched : u.sched = s.sched)
    (step : u.step = s.step) (done : s.sched = .init → InitDone (edges (opsDone s ++ [m])) u.rx) :
    initFits (advance u) := by
  have sched' : (advance u).sched = (advance s).sched := by rw [advance_sched, advance_sched, sched, step]
  have step' : (advance u).step = (advance s).step := by rw [advance_step, advance_step, sched, step]
  refine initFits_iff_initDone.mpr fun init => ?_
  obtain ⟨same, -, ops⟩ | ⟨ended, -⟩ := opsDone_advanced at_pc sched' step'
  · rw [ops]
    exact done (same.symm.trans init)
  · exact nomatch ended.symm.trans init

/-- A due phase. -/
theorem initFits_duePhase {m : Micro} {s t : State} (block : BlockInv s) (schedule : ScheduleInv s)
    (framing : framingFits s) (fits : initFits s) (at_pc : s.sched.steps[s.step]? = some m)
    (h : runPhase (m.duePhase s) s = .next t) : initFits t := by
  have done := initFits_iff_initDone.mp fits
  obtain ⟨w, rfl, -, rfl⟩ | ⟨w, rfl, -, rfl⟩ | ⟨noWait, u, hu, rfl⟩ := duePhase_cases h
  · exact fits
  · refine initFits_advance at_pc rfl rfl fun init => ?_
    rw [edges_concat (m := .wait w) _ fun edge => nomatch edge]
    exact done init
  · have idle := waitFrom_of_micro block at_pc noWait
    have kept := microEffect_done hu noWait idle (block.noWait idle)
    have advanced : initFits (advance u) := by
      refine initFits_advance at_pc kept.sched kept.step fun init => ?_
      by_cases edge : m = .eLo
      · subst edge
        rw [edges_concat_eLo]
        exact initDone_eLo block schedule at_pc hu init framing (done init)
      · rw [edges_concat _ edge, microEffect_rx hu edge]
        exact done init
    exact advanced

/-- No power is applied while INIT runs (R197). -/
theorem rx_envTurn_inside {s t : State} (block : BlockInv s) (inside : s.sched ≠ .none) (h : envTurn s = .next t) :
    t.rx = s.rx := by
  obtain ⟨-, ⟨-, same⟩ | ⟨notAccepted, -⟩⟩ := envTurn_frame h
  · exact same
  · exact absurd (outside_of_not_initAccepted block notAccepted).1 inside

theorem initFits_envTurn {s t : State} (block : BlockInv s) (fits : initFits s) (h : envTurn s = .next t) :
    initFits t := by
  have frame := (envTurn_frame h).1
  have sched : t.sched = s.sched := by rw [frame]
  have ops : opsDone t = opsDone s := by rw [frame]; rfl
  refine initFits_iff_initDone.mpr fun init => ?_
  have init' : s.sched = .init := sched.symm.trans init
  rw [ops, rx_envTurn_inside block (by rw [init']; decide) h]
  exact initFits_iff_initDone.mp fits init'

/-- A request that starts INIT finds the receiver unknown (R33). -/
theorem initFits_request {s t : State} (block : BlockInv s) (accepts : s.accepts = true)
    (h : exec (decodeReq s.reqWord) { s with reqValid := false } = .next t) : initFits t := by
  obtain ⟨-, outside, -, -⟩ := accepts_iff.mp accepts
  have block' := blockInv_request block accepts h
  have start := step_of_request h
  refine initFits_iff_initDone.mpr fun init => initDone_early ?_ ?_
  · rw [opsDone, start, List.take_zero]
    decide
  · have released : t.oe = false := by
      rw [(oeFits_iff_scheduleOe (by rw [init]; decide)).mp block'.oe, init, start]
      rfl
    rw [block'.undriven released]
    rfl

/-! ### CGRAM, all through INIT -/

/-- While INIT runs CGRAM is unknown. -/
def InitCg (s : State) : Prop := s.sched = .init → s.rx.mem.cg = []

theorem initCg_envTurn {s t : State} (block : BlockInv s) (cg : InitCg s) (h : envTurn s = .next t) : InitCg t := by
  have sched : t.sched = s.sched := by rw [(envTurn_frame h).1]
  intro init
  have init' : s.sched = .init := sched.symm.trans init
  rw [rx_envTurn_inside block (by rw [init']; decide) h]
  exact cg init'

theorem initCg_duePhase {m : Micro} {s t : State} (block : BlockInv s) (schedule : ScheduleInv s) (cg : InitCg s)
    (at_pc : s.sched.steps[s.step]? = some m) (h : runPhase (m.duePhase s) s = .next t) : InitCg t := by
  intro init
  have init' : s.sched = .init := by
    obtain ended | ⟨same, -⟩ := duePhase_place at_pc h
    · exact nomatch ended.symm.trans init
    · exact same.symm.trans init
  obtain ⟨w, rfl, -, rfl⟩ | ⟨w, rfl, -, rfl⟩ | ⟨noWait, u, hu, rfl⟩ := duePhase_cases h
  · exact cg init'
  · exact cg init'
  · have kept : u.rx.mem.cg = s.rx.mem.cg := by
      by_cases edge : m = .eLo
      · subst edge
        exact rxLatch_instruction_cg (s := dropE s) (latch_of_init block schedule at_pc hu init')
      · rw [microEffect_rx hu edge]
    exact kept.trans (cg init')

/-- What each part of a step keeps: where pc stands, what has been latched, and CGRAM. -/
structure InitCgKept (s : State) : Prop where
  block : BlockInv s
  schedule : ScheduleInv s
  cg : InitCg s

/-- Every step keeps that, since all nibbles of INIT come with RS = 0. -/
theorem initCg_step {s t : State} (block : BlockInv s) (schedule : ScheduleInv s) (cg : InitCg s)
    (h : step s = .next t) : InitCg t :=
  (step_keeps_due (P := InitCgKept)
    (fun _ _ ⟨block, schedule, cg⟩ h =>
      ⟨blockInv_envTurn block h, scheduleInv_envTurn schedule h, initCg_envTurn block cg h⟩)
    (fun s _ => ⟨blockInv_holdReset s, .inl rfl, fun init => nomatch init⟩)
    (fun _ _ _ ⟨block, schedule, cg⟩ at_pc h =>
      ⟨blockInv_duePhase block at_pc h, (schedule_duePhase block schedule at_pc h).1,
        initCg_duePhase block schedule cg at_pc h⟩)
    (fun _ kept => waitFrom_of_fetchNibble kept.block)
    (fun _ _ kept accepts h =>
      ⟨blockInv_elapse (blockInv_request kept.block accepts h), have start := step_of_request h; scheduleInv_of_start start,
        fun init => (initFits_iff_initDone.mp (initFits_request kept.block accepts h) init).cg⟩)
    (fun _ kept outside =>
      ⟨blockInv_elapse kept.block, .inl outside, fun init => nomatch outside.symm.trans init⟩)
    ⟨block, schedule, cg⟩ h).cg

/-! ### The single nibbles' groups -/

/-- Short of the end of its schedule a phase moves STEP on by at most one. -/
theorem runPhase_place {p : Phase} {s u : State} (room : s.step + 1 < s.sched.steps.length) (h : runPhase p s = .next u) :
    u.sched = s.sched ∧ u.step ≤ s.step + 1 := by
  obtain ⟨sched, step⟩ | ⟨sched, step⟩ := runPhase_pc h
  · exact ⟨sched, by omega⟩
  · rw [advance_sched, nextPc_mid room] at sched
    rw [advance_step, nextPc_mid room] at step
    exact ⟨sched, step.le⟩

/-- A group that does not reach the end of its schedule ends in a reset, or in the schedule at most as many steps on as it has
phases. -/
theorem runGroup_place {ps : List Phase} {s t : State} (room : s.step + ps.length < s.sched.steps.length)
    (h : runGroup ps s = .next t) : (∃ v, t = holdReset v) ∨ (t.sched = s.sched ∧ t.step ≤ s.step + ps.length) := by
  induction ps generalizing s with
  | nil => cases h; exact .inr ⟨rfl, Nat.le_refl _⟩
  | cons p rest ih =>
    simp only [List.length_cons] at room ih ⊢
    cases rest with
    | nil => exact .inr (runPhase_place room h)
    | cons q rest =>
      obtain ⟨u, v, phase, env, next⟩ := runGroup_cons_cases h
      obtain ⟨sched, step⟩ := runPhase_place (by omega) phase
      have frame := (envTurn_frame env).1
      have sched' : v.sched = s.sched := by rw [frame]; exact sched
      have step' : v.step ≤ s.step + 1 := by rw [frame]; exact step
      obtain ⟨-, held⟩ | ⟨-, next⟩ := next
      · exact .inl ⟨v, held⟩
      · obtain held | ⟨same, bound⟩ := ih (by rw [sched']; omega) next
        · exact .inl held
        · exact .inr ⟨same.trans sched', by omega⟩

/-- A turn inside INIT or TX runs a single nibble's group, which ends in a reset or before the second nibble of the first byte,
or the due phase. -/
theorem scheduleTurn_place {s t : State} (h : scheduleTurn s = .next t) :
    ((∃ v, t = holdReset v) ∨ (t.sched = .init ∧ t.step ≤ 37))
      ∨ ∃ m, s.sched.steps[s.step]? = some m ∧ runPhase (m.duePhase s) s = .next t := by
  have group : ∀ ps : List Phase, s.sched = .init → ps.length ≤ 12 → s.step ≤ 25 → runGroup ps s = .next t →
      (∃ v, t = holdReset v) ∨ (t.sched = .init ∧ t.step ≤ 37) := fun ps init few early run => by
    obtain held | ⟨sched, step⟩ := runGroup_place (by rw [init, length_steps_init]; omega) run
    · exact .inl held
    · exact .inr ⟨sched.trans init, by omega⟩
  obtain ⟨fetched, run⟩ | ⟨fetched, run⟩ | ⟨-, due⟩ := scheduleTurn_cases h
  · obtain ⟨init, ⟨step, -⟩ | ⟨-, other⟩⟩ := fetchNibble_cases fetched
    · have few : ((bootGroup (bootWait s.step)).flatMap Micro.phases).length = 11 := rfl
      exact .inl (group _ init (by omega) (by omega) run)
    · cases other
  · obtain ⟨init, ⟨-, other⟩ | ⟨step, -⟩⟩ := fetchNibble_cases fetched
    · cases other
    · exact .inl (group _ init (Nat.le_refl _) step.le run)
  · exact .inr due

/-! ### The step -/

/-- A step inside INIT is a group before the first byte is complete, or the due phase, which finds the receiver framed. -/
theorem initFits_step {s t : State} (block : BlockInv s) (schedule : ScheduleInv s) (receiver : ReceiverInv s)
    (fits : initFits s) (h : step s = .next t) : initFits t := by
  obtain ⟨u, env, -, turn⟩ := step_cases h
  have block' := blockInv_envTurn block env
  obtain ⟨-, rfl⟩ | ⟨-, -, turn⟩ | ⟨-, -, accepts, v, accepted, rfl⟩ | ⟨-, outside, -, rfl⟩ := blockTurn_cases turn
  · exact fun init => nomatch init
  · obtain (⟨v, rfl⟩ | ⟨sched, early⟩) | ⟨m, at_pc, phase⟩ := scheduleTurn_place turn
    · exact fun init => nomatch init
    · have cg : InitCg t := initCg_step block schedule (fun init => (initFits_iff_initDone.mp fits init).cg) h
      refine initFits_iff_initDone.mpr fun init => initDone_early ?_ (cg init)
      rw [opsDone, sched]
      exact Nat.lt_of_le_of_lt (edges_init_early _ early) (by decide)
    · exact initFits_duePhase block' (scheduleInv_envTurn schedule env) (framingFits_envTurn block receiver.framing env)
        (initFits_envTurn block fits env) at_pc phase
  · have started : initFits v := initFits_request block' accepts accepted
    exact started
  · exact fun init => nomatch outside.symm.trans init

/-- The step that ends INIT in READY runs its last micro-operation, which leaves the receiver alone. -/
theorem last_step_of_init {s t : State} (h : step s = .next t) (init : s.sched = .init) (ended : t.sched = .none)
    (ready : t.fsm = .ready) : ∃ u, envTurn s = .next u ∧ u.sched = .init ∧ u.step = 113 ∧ t.rx = u.rx := by
  obtain ⟨u, env, rfl | turn⟩ := step_inside_cases (by rw [init]; decide) h
  · cases ready
  have init' : u.sched = .init := by rw [(envTurn_frame env).1]; exact init
  obtain (⟨v, rfl⟩ | ⟨sched, -⟩) | ⟨m, at_pc, phase⟩ := scheduleTurn_place turn
  · cases ready
  · exact nomatch sched.symm.trans ended
  · have last : u.step = 113 := by
      obtain ⟨w, -, -, rfl⟩ | ⟨sched, -⟩ := duePhase_advances phase
      · exact nomatch init'.symm.trans ended
      obtain ⟨-, same, -⟩ | ⟨last, -⟩ := advance_cases at_pc
      · exact nomatch (sched.trans (same.trans init')).symm.trans ended
      · rw [init', length_steps_init] at last
        exact Nat.succ.inj last
    rw [init', last] at at_pc
    cases at_pc
    cases phase
    exact ⟨u, env, init', last, rfl⟩

/-- Settles O57: no assumption about the receiver's timing is needed, since a busy receiver refuses and the framing is asked
for only at the beginning of the step; the step that ends INIT finds all fourteen edges done. -/
theorem initReachesReadyReceiver : Obligations.InitReachesReadyReceiver := by
  refine ⟨fun _ _ => initFits_step, fun s t block receiver fits h init ended ready => ?_⟩
  obtain ⟨u, env, init', last, rx⟩ := last_step_of_init h init ended ready
  have all : edges (opsDone u) = 14 := by
    rw [opsDone, init', last]
    decide +kernel
  have done := initFits_iff_initDone.mp (initFits_envTurn block fits env) init'
  have framed := (framingFits_iff_framed (by rw [init']; decide)).mp (framingFits_envTurn block receiver.framing env)
  rw [nextEdge, init', all] at framed
  rw [all, ← rx] at done
  obtain ⟨cur, blink⟩ := done.cursor (by decide)
  obtain ⟨target, ac, shift, ddFill, dd⟩ := done.cleared (by decide)
  have blank : ∀ a, t.rx.mem.ddAt a = .blank := fun a => by simp [Memory.ddAt, dd, ddFill, readCells, CellFill.cell]
  have unknown : ∀ a, t.rx.mem.cgAt a = none := fun a => by simp [Memory.cgAt, done.cg, readCells]
  exact ⟨rx ▸ framed, target, ac, blank, unknown, done.disp (by decide), cur, blink, done.entry (by decide),
    done.func (by decide), shift⟩

end Sys2Proof.Proofs
end

section
/-! Proofs about the first requests and transfers of the initialization (spec/42_controller_fsm.md R115, R122, R124-R126). -/

namespace Sys2Proof.Proofs

open Sys2Proof.Machine Sys2Proof.Laws Sys2Proof.Safety

theorem exec_init_first {s : State} (h : s.fsm = .uninit) : exec .init s = .next (startInit s) := if_pos h

/-- Settles O9: INIT accepted in UNINIT is `startInit`. -/
theorem initStarts : Obligations.InitStarts := fun _ h => exec_init_first h

/-- R117: a transfer of the initialization latches the halves of the byte it loads with RS = 0, whatever stood in the data
path before. -/
theorem pathAfter_initTransfer (rs l : Bool) (x b : Byte) (d : Nibble) :
    (pathAfter rs x l d (initTransfer b)).out = [(false, hi b), (false, lo b)] :=
  (pathAfter_tx false l b d).1

/-- Settles O44: each transfer stands at its place in the schedule, and latches the halves of its byte. -/
theorem initTransfers : Obligations.InitTransfers := by
  intro b k n m settle listed
  simp only [List.mem_cons, Prod.mk.injEq, List.not_mem_nil, or_false] at listed
  obtain ⟨rfl, rfl, rfl, rfl, rfl⟩ | ⟨rfl, rfl, rfl, rfl, rfl⟩ | ⟨rfl, rfl, rfl, rfl, rfl⟩ | ⟨rfl, rfl, rfl, rfl, rfl⟩ :=
    listed
  · exact ⟨rfl, settleOf_short (by decide), fun rs l x => pathAfter_initTransfer rs l x 0x28⟩
  · exact ⟨rfl, settleOf_long (by decide), fun rs l x => pathAfter_initTransfer rs l x 0x01⟩
  · exact ⟨rfl, settleOf_short (by decide), fun rs l x => pathAfter_initTransfer rs l x 0x06⟩
  · exact ⟨rfl, settleOf_short (by decide), fun rs l x => pathAfter_initTransfer rs l x 0x0C⟩

end Sys2Proof.Proofs
end

section
/-! Proofs about the single nibbles' groups (spec/42_controller_fsm.md R119-R121): with the host idle and the receiver ready
each runs to its end. -/

namespace Sys2Proof.Proofs

open Sys2Proof.Machine Sys2Proof.Laws Sys2Proof.Safety

/-! ### A nibble latched by a ready receiver -/

/-- A ready receiver executes every byte with RS = 0 (R156, R176). -/
theorem rxExec_instruction_ready (b : Byte) {s : State} (ready : s.rx.xend ≤ s.now) : ∃ t, rxExec false b s = .next t := by
  obtain ⟨f, effect⟩ := rxExec_instruction b
  rw [effect.transfer, rxTransfer_ready ready]
  exact ⟨_, rfl⟩

/-- A ready receiver latches every nibble with RS = 0, in every framing (R153). -/
theorem rxLatch_instruction_ready (n : Nibble) {s : State} (ready : s.rx.xend ≤ s.now) :
    ∃ t, rxLatch false n s = .next t := by
  have known : ∀ (f : Framing) (u : State), u.rx.xend ≤ u.now → ∃ t, latchIn f false n u = .next t := by
    intro f u ready
    cases f with
    | m8 => exact rxExec_instruction_ready _ ready
    | m4h => exact ⟨_, rfl⟩
    | m4l =>
      rw [latchIn]
      split
      · exact rxExec_instruction_ready _ ready
      · exact rxExec_instruction_ready _ ready
  unfold rxLatch
  split
  · exact known _ _ ready
  · exact known _ _ ready

theorem lo_byteOf (x y : Nibble) : lo (byteOf x y) = y := by
  revert x y; decide +kernel

/-- An instruction byte that is not the clear leaves both memories alone (R160, R176). -/
theorem rxExec_instruction_mem {b : Byte} {s t : State} (notClear : b ≠ 0x01) (h : rxExec false b s = .next t) :
    t.rx.mem = s.rx.mem := by
  obtain ⟨f, effect⟩ := rxExec_instruction b
  rw [effect.transfer] at h
  obtain ⟨-, r, hr, rfl⟩ := rxTransfer_cases h
  cases hr
  exact effect.mem notClear s.rx

/-- A nibble that is no half of the clear leaves both memories alone, in every framing. -/
theorem rxLatch_instruction_mem {n : Nibble} {s t : State} (notHigh : n ≠ hi 0x01) (notLow : n ≠ lo 0x01)
    (h : rxLatch false n s = .next t) : t.rx.mem = s.rx.mem := by
  obtain ⟨f, -, case⟩ := rxLatch_instruction_cases h
  cases f with
  | m8 =>
    obtain ⟨x, u, rx, -, -, exec⟩ := case
    have notClear : byteOf n x ≠ 0x01 := fun clear => notHigh (by rw [← clear, hi_byteOf])
    rw [rxExec_instruction_mem notClear exec, rx]
  | m4h =>
    have stored : t.rx = { s.rx with ifmode := some .m4l, nibhi := some n } := case
    rw [stored]
  | m4l =>
    obtain ⟨x, u, -, rx, -, exec⟩ := case
    have notClear : byteOf x n ≠ 0x01 := fun clear => notLow (by rw [← clear, lo_byteOf])
    rw [rxExec_instruction_mem notClear exec, rx]

/-! ### A group with the host idle -/

/-- Inside INIT, with rst = 0 and no move of the host to come. -/
structure Undisturbed (s : State) : Prop where
  init : s.sched = .init
  host : s.host = []
  rst : s.rst = false

/-- What neither a pulse nor a WAIT touches. -/
structure PulseKept (s t : State) : Prop where
  sched : t.sched = s.sched
  host : t.host = s.host
  rst : t.rst = s.rst
  cfg : t.cfg = s.cfg
  fsm : t.fsm = s.fsm
  fcode : t.fcode = s.fcode
  reqRs : t.reqRs = s.reqRs
  reqByte : t.reqByte = s.reqByte
  settle : t.settle = s.settle
  lineRs : t.lineRs = s.lineRs
  oe : t.oe = s.oe

theorem PulseKept.trans {s t u : State} (first : PulseKept s t) (second : PulseKept t u) : PulseKept s u where
  sched := second.sched.trans first.sched
  host := second.host.trans first.host
  rst := second.rst.trans first.rst
  cfg := second.cfg.trans first.cfg
  fsm := second.fsm.trans first.fsm
  fcode := second.fcode.trans first.fcode
  reqRs := second.reqRs.trans first.reqRs
  reqByte := second.reqByte.trans first.reqByte
  settle := second.settle.trans first.settle
  lineRs := second.lineRs.trans first.lineRs
  oe := second.oe.trans first.oe

theorem Undisturbed.kept {s t : State} (calm : Undisturbed s) (kept : PulseKept s t) : Undisturbed t :=
  ⟨kept.sched.trans calm.init, kept.host.trans calm.host, kept.rst.trans calm.rst⟩

/-- The environment's turn then does nothing: the client waits for req_ready. -/
theorem Undisturbed.envTurn {s : State} (calm : Undisturbed s) : envTurn s = .next s := by
  have busy : s.reqReady = false := by simp [State.reqReady, calm.init]
  rw [envTurn_no_host calm.host, clientTurn_waits busy]

/-- A group goes on where its first part has ended. -/
theorem runGroup_append {ps qs : List Phase} {s t : State} (first : runGroup ps s = .next t) (calm : Undisturbed t) :
    runGroup (ps ++ qs) s = runGroup qs t := by
  induction ps generalizing s with
  | nil => cases first; rfl
  | cons p rest ih =>
    cases rest with
    | nil =>
      cases qs with
      | nil => exact first
      | cons q qs =>
        have run : runPhase p s = .next t := first
        simp [runGroup, run, calm.envTurn, calm.rst]
    | cons p' rest =>
      obtain ⟨u, v, phase, env, ⟨raised, rfl⟩ | ⟨noReset, next⟩⟩ := runGroup_cons_cases first
      · exact nomatch raised.symm.trans calm.rst
      · rw [← ih next]
        simp [runGroup, phase, env, noReset]

/-- Short of the end of INIT, STEP advances by one. -/
theorem advance_init {s : State} (init : s.sched = .init) (room : s.step + 1 < 114) :
    advance s = { s with step := s.step + 1 } := by
  rw [advance, nextPc_mid (by rw [init]; exact room)]

/-! ### A micro-operation of a group, and a wait -/

/-- After a whole micro-operation whose effect is u. -/
def stepped (u : State) : State := elapse { u with step := u.step + 1 }

/-- After a WAIT, begun in s and ended. -/
def waited (w : WaitOperand) (s : State) : State :=
  { waitEnd (w.value s) (waitBegin (w.value s) s) with step := s.step + 1 }

section

variable (w : WaitOperand) (s : State)

theorem pulseKept_stepped : PulseKept s (stepped s) := ⟨rfl, rfl, rfl, rfl, rfl, rfl, rfl, rfl, rfl, rfl, rfl⟩

theorem pulseKept_waited : PulseKept s (waited w s) := ⟨rfl, rfl, rfl, rfl, rfl, rfl, rfl, rfl, rfl, rfl, rfl⟩

@[simp] theorem stepped_step : (stepped s).step = s.step + 1 := rfl
@[simp] theorem stepped_trace : (stepped s).trace = s.trace := rfl
@[simp] theorem waited_step : (waited w s).step = s.step + 1 := rfl
@[simp] theorem waited_lineE : (waited w s).lineE = s.lineE := rfl
@[simp] theorem waited_rx : (waited w s).rx = s.rx := rfl

theorem written_concat (t : List (Nat × Event)) (e : Nat × Event) : written (t ++ [e]) = written t ++ [asked e.2] :=
  List.map_append

theorem written_waited : written (waited w s).trace = written s.trace ++ [.wait (w.value s) 0] :=
  written_concat s.trace _

theorem stepped_later : s.now ≤ (stepped s).now := Nat.le_add_right _ _

theorem waited_lasts : s.now + w.value s ≤ (waited w s).now := by
  simp only [waited, waitEnd_now, waitBegin_now, waitBegin_waitRem]
  omega

end

/-- Undisturbed, a group runs a whole micro-operation and goes on. -/
theorem runGroup_micro {m : Micro} {ops : List Micro} {s u : State} (noWait : isWait m = false)
    (effect : microEffect m s = .next u) (calm : Undisturbed u) (room : u.step + 1 < 114) :
    runGroup ((m :: ops).flatMap Micro.phases) s = runGroup (ops.flatMap Micro.phases) (stepped u) := by
  have phases : m.phases = [.whole m] := by
    cases m with
    | wait w => cases noWait
    | _ => rfl
  have run : runGroup m.phases s = .next (stepped u) := by
    rw [phases, runGroup, runPhase, effect, andThen_next, advance_init calm.init room]
    rfl
  exact runGroup_append run (calm.kept (pulseKept_stepped u))

/-- Undisturbed, a group begins and ends a WAIT and goes on. -/
theorem runGroup_wait {w : WaitOperand} {ops : List Micro} {s : State} (calm : Undisturbed s) (room : s.step + 1 < 114) :
    runGroup ((.wait w :: ops).flatMap Micro.phases) s = runGroup (ops.flatMap Micro.phases) (waited w s) := by
  have begun : Undisturbed (waitBegin (w.value s) s) := ⟨calm.init, calm.host, calm.rst⟩
  have value : w.value (waitBegin (w.value s) s) = w.value s := waitValue_congr w rfl rfl
  have run : runGroup (Micro.phases (.wait w)) s = .next (waited w s) := by
    have ends : runGroup (Micro.phases (.wait w)) s = runGroup [.waitEnd w] (waitBegin (w.value s) s) :=
      runGroup_append (ps := [.waitBegin w]) rfl begun
    rw [ends, runGroup, runPhase_waitEnd, value]
    exact congrArg Host.Outcome.next (advance_init (s := waitEnd _ _) calm.init room)
  exact runGroup_append run (calm.kept (pulseKept_waited w s))

/-! ### A nibble presented, latched, and waited for -/

/-- What a micro-operation with effect u and the WAIT after it make of u. -/
structure ThenWaited (w : WaitOperand) (u t : State) : Prop where
  kept : PulseKept u t
  step : t.step = u.step + 2
  lineE : t.lineE = u.lineE
  lineD : t.lineD = u.lineD
  latched : t.latched = u.latched
  rx : t.rx = u.rx
  trace : written t.trace = written u.trace ++ [.wait (w.value u) 0]
  time : u.now + w.value u ≤ t.now

theorem runGroup_micro_wait {m : Micro} (w : WaitOperand) (ops : List Micro) {s u : State} (noWait : isWait m = false)
    (effect : microEffect m s = .next u) (calm : Undisturbed u) (room : u.step + 2 < 114) :
    ∃ t, runGroup ((m :: .wait w :: ops).flatMap Micro.phases) s = runGroup (ops.flatMap Micro.phases) t
      ∧ ThenWaited w u t := by
  have kept := pulseKept_stepped u
  have value : w.value (stepped u) = w.value u := waitValue_congr w kept.cfg kept.settle
  have later := stepped_later u
  have lasts := waited_lasts w (stepped u)
  refine ⟨waited w (stepped u), ?_, kept.trans (pulseKept_waited w _), rfl, rfl, rfl, rfl, rfl, ?_, ?_⟩
  · rw [runGroup_micro noWait effect calm (by omega), runGroup_wait (calm.kept kept) room]
  · rw [written_waited, value, stepped_trace]
  · omega

theorem pulseKept_doSetD (n : Nibble) (s : State) : PulseKept s (doSetD n s) :=
  ⟨rfl, rfl, rfl, rfl, rfl, rfl, rfl, rfl, rfl, rfl, rfl⟩

theorem pulseKept_doEHi (s : State) : PulseKept s (doEHi s) := ⟨rfl, rfl, rfl, rfl, rfl, rfl, rfl, rfl, rfl, rfl, rfl⟩

theorem pulseKept_doELo {s t : State} (h : doELo s = .next t) : PulseKept s t := by
  rw [doELo_frame h]
  exact ⟨rfl, rfl, rfl, rfl, rfl, rfl, rfl, rfl, rfl, rfl, rfl⟩

/-- A ready receiver lets a falling edge with RS = 0 pass. -/
theorem doELo_ready {s : State} (driven : s.oe = true) (low : s.lineRs = false) (ready : s.rx.xend ≤ s.now) :
    ∃ u, doELo s = .next u ∧ rxLatch false s.lineD (dropE s) = .next u := by
  obtain ⟨u, latch⟩ := rxLatch_instruction_ready s.lineD (s := dropE s) ready
  exact ⟨u, by rw [doELo, if_pos driven, low]; exact latch, latch⟩

/-- What presenting n and raising E, up to its falling edge, make of s (R96). -/
structure Raised (n : Nibble) (s t : State) : Prop where
  kept : PulseKept s t
  step : t.step = s.step + 4
  lineD : t.lineD = n
  latched : t.latched = s.latched
  rx : t.rx = s.rx
  trace : written t.trace =
    written s.trace ++ [.dataLines n, .wait s.cfg.tDsu 0, .lineE true, .wait s.cfg.tPw 0]
  time : s.now + s.cfg.tDsu + s.cfg.tPw ≤ t.now

theorem runGroup_raise (n : Nibble) (ops : List Micro) {s : State} (calm : Undisturbed s) (room : s.step + 4 < 114) :
    ∃ t, runGroup (((present (.const n)).take 4 ++ ops).flatMap Micro.phases) s = runGroup (ops.flatMap Micro.phases) t
      ∧ Raised n s t := by
  have kept := pulseKept_doSetD n s
  obtain ⟨p, run_p, presented⟩ := runGroup_micro_wait (m := .setD (.const n)) (s := s) .dataSetup
    (.eHi :: .wait .pulseWidth :: ops) rfl rfl (calm.kept kept) (by rw [doSetD_step]; omega)
  have step : p.step = s.step + 2 := presented.step
  have kept := (kept.trans presented.kept).trans (pulseKept_doEHi p)
  obtain ⟨t, run_t, raised⟩ := runGroup_micro_wait (m := .eHi) (s := p) .pulseWidth ops rfl rfl (calm.kept kept)
    (by rw [doEHi_step]; omega)
  refine ⟨t, run_p.trans run_t, kept.trans raised.kept, ?_, raised.lineD.trans presented.lineD,
    raised.latched.trans presented.latched, raised.rx.trans presented.rx, ?_, ?_⟩
  · rw [raised.step, doEHi_step, step]
  · rw [raised.trace, doEHi_trace, written_concat, presented.trace, doSetD_trace, written_concat]
    simp only [WaitOperand.value, kept.cfg, doSetD_cfg, List.append_assoc]
    rfl
  · have setup := presented.time
    have width := raised.time
    simp only [WaitOperand.value, kept.cfg, doSetD_cfg, doSetD_now, doEHi_now] at setup width
    omega

/-- What presenting and latching n with RS = 0, and then waiting w, makes of s. -/
structure PulseDone (n : Nibble) (w : WaitOperand) (s t : State) : Prop where
  kept : PulseKept s t
  step : t.step = s.step + 7
  lineE : t.lineE = false
  lineD : t.lineD = n
  waitRem : t.waitRem = 0
  waitFrom : t.waitFrom = none
  latched : t.latched = s.latched ++ [(false, n)]
  trace : written t.trace = written s.trace ++
    [.dataLines n, .wait s.cfg.tDsu 0, .lineE true, .wait s.cfg.tPw 0, .lineE false, .wait s.cfg.tH 0, .wait (w.value s) 0]
  time : s.now + s.cfg.tDsu + s.cfg.tPw + s.cfg.tH + w.value s ≤ t.now
  mem : t.rx.mem = s.rx.mem
  framing : s.rx.ifmode = some .m8 → (n = 3 → t.rx.ifmode = some .m8) ∧ (n = 2 → t.rx.ifmode = some .m4h)

/-- With the host idle, RS low, the bus driven and the receiver ready a pulse of a nibble that is no half of the clear runs to
its end. -/
theorem pulse_completes {n : Nibble} (w : WaitOperand) {s : State} (calm : Undisturbed s) (room : s.step + 7 < 114)
    (driven : s.oe = true) (low : s.lineRs = false) (ready : s.rx.xend ≤ s.now) (notHigh : n ≠ hi 0x01)
    (notLow : n ≠ lo 0x01) :
    ∃ t, runGroup ((present (.const n) ++ [Micro.wait w]).flatMap Micro.phases) s = .next t ∧ PulseDone n w s t := by
  obtain ⟨p, run_p, raised⟩ := runGroup_raise n [.eLo, .wait .hold, .wait w] calm (by omega)
  have up := raised.time
  obtain ⟨u, edge, latch⟩ := doELo_ready (raised.kept.oe.trans driven) (raised.kept.lineRs.trans low)
    (by rw [raised.rx]; omega)
  rw [raised.lineD] at latch
  have frame := doELo_frame edge
  have step : u.step = s.step + 4 := by rw [frame]; exact raised.step
  have lineD : u.lineD = n := by rw [frame]; exact raised.lineD
  have now : u.now = p.now := by rw [frame]; rfl
  have latched : u.latched = s.latched ++ [(false, n)] := by
    have dropped : (dropE p).latched = s.latched ++ [(false, n)] := by
      rw [dropE_latched, if_pos (raised.kept.oe.trans driven), raised.latched, raised.kept.lineRs, low, raised.lineD]
    rw [frame]
    exact dropped
  have trace : written u.trace = written p.trace ++ [.lineE false] := by rw [frame]; exact written_concat p.trace _
  have kept := raised.kept.trans (pulseKept_doELo edge)
  obtain ⟨q, run_q, held⟩ := runGroup_micro_wait (m := .eLo) .hold [.wait w] rfl edge (calm.kept kept) (by omega)
  have kept' := kept.trans held.kept
  have run_t := runGroup_wait (w := w) (ops := []) (calm.kept kept') (by rw [held.step]; omega)
  have value : w.value q = w.value s := waitValue_congr w kept'.cfg kept'.settle
  exact ⟨waited w q, (run_p.trans run_q).trans run_t, {
    kept := kept'.trans (pulseKept_waited w q)
    step := by rw [waited_step, held.step, step]
    lineE := by rw [waited_lineE, held.lineE, frame]; rfl
    lineD := held.lineD.trans lineD
    waitRem := rfl
    waitFrom := rfl
    latched := held.latched.trans latched
    trace := by
      rw [written_waited, held.trace, trace, raised.trace, value]
      simp only [WaitOperand.value, kept.cfg, List.append_assoc]
      rfl
    time := by
      have hold := held.time
      have last := waited_lasts w q
      simp only [WaitOperand.value, kept.cfg] at hold
      omega
    mem := by
      rw [waited_rx, held.rx, rxLatch_instruction_mem notHigh notLow latch, dropE_rx, raised.rx]
    framing := fun m8 => by
      obtain ⟨x, v, -, exec⟩ := latch_in_m8 (s := dropE p) (by rw [dropE_rx, raised.rx]; exact m8) latch
      obtain ⟨three, two, -⟩ := rxExec_instruction_framing exec
      rw [waited_rx, held.rx]
      rw [hi_byteOf] at three two
      exact ⟨three, two⟩ }⟩

/-! ### The two groups -/

/-- R121: the wait after a pulse is told from where it begins. -/
theorem bootWait_value {s : State} (place : s.step = 4 ∨ s.step = 11 ∨ s.step = 18) :
    (bootWait s.step).value s =
      if s.step = 4 then s.cfg.tBoot1 else if s.step = 11 then s.cfg.tBoot2 else s.cfg.tBoot3 := by
  obtain step | step | step := place
  · rw [step]; rfl
  · rw [step]; rfl
  · rw [step]; rfl

theorem exec_bootFuncset8bit (s : State) : exec .bootFuncset8bit s =
    runGroup ((present (.const 3) ++ [Micro.wait (bootWait s.step)]).flatMap Micro.phases) s := rfl

theorem exec_switch4bit (s : State) : exec .switch4bit s =
    runGroup ((Micro.setFsm .boot4 :: (present (.const 2) ++ [Micro.wait .switch])).flatMap Micro.phases) s := rfl

/-- Settles O39: the group is one pulse of the nibble 3 and the wait of its place. -/
theorem bootPulseCompletes : Obligations.BootPulseCompletes := by
  intro s host rst init place driven low ready
  obtain ⟨t, run, done⟩ := pulse_completes (n := 3) (bootWait s.step) ⟨init, host, rst⟩ (by omega) driven low ready
    (by decide) (by decide)
  have kept := done.kept
  have trace := done.trace
  have time := done.time
  rw [bootWait_value place] at trace time
  exact ⟨t, (exec_bootFuncset8bit s).trans run, kept.sched.trans init, done.step, kept.fsm, kept.fcode, kept.cfg,
    kept.rst.trans rst, kept.lineRs.trans low, done.lineE, done.lineD, kept.oe.trans driven, done.waitRem, done.waitFrom,
    kept.reqRs, kept.reqByte, kept.settle, done.latched, trace, time, done.mem, fun m8 => (done.framing m8).1 rfl⟩

/-- Settles O40: the group sets FSM, and then is one pulse of the nibble 2 and its wait. -/
theorem switchCompletes : Obligations.SwitchCompletes := by
  intro s host rst init step driven low ready
  have calm : Undisturbed (doSetFsm .boot4 s) := ⟨init, host, rst⟩
  have run_fsm := runGroup_micro (m := .setFsm .boot4) (ops := present (.const 2) ++ [Micro.wait .switch]) (s := s) rfl rfl
    calm (by rw [doSetFsm_step]; omega)
  have began := pulseKept_stepped (doSetFsm .boot4 s)
  have later := stepped_later (doSetFsm .boot4 s)
  obtain ⟨t, run, done⟩ := pulse_completes (n := 2) .switch (calm.kept began) (by rw [stepped_step, doSetFsm_step]; omega)
    driven low (ready.trans later) (by decide) (by decide)
  have kept := began.trans done.kept
  refine ⟨t, (exec_switch4bit s).trans (run_fsm.trans run), kept.sched.trans init, ?_, kept.fsm, kept.fcode, kept.cfg,
    kept.rst.trans rst, kept.lineRs.trans low, done.lineE, done.lineD, kept.oe.trans driven, done.waitRem, done.waitFrom,
    kept.reqRs, kept.reqByte, kept.settle, done.latched, ?_, ?_, done.mem, fun m8 => (done.framing m8).2 rfl⟩
  · rw [done.step, stepped_step, doSetFsm_step, step]
  · rw [done.trace, stepped_trace, doSetFsm_trace, written_concat, List.append_assoc]
    rfl
  · have time := done.time
    simp only [WaitOperand.value, began.cfg, doSetFsm_cfg] at time
    rw [doSetFsm_now] at later
    omega

end Sys2Proof.Proofs
end

section
/-! Proofs about the decimal text of an integer (spec/43_session_api.md R142): it is Mathlib's digits in base ten, the most
significant first, each as its ASCII byte. -/

namespace Sys2Proof.Proofs

open Sys2Proof.Machine Sys2Proof.Safety

/-! ### One digit -/

/-- The ASCII byte of a decimal digit (R142). -/
def asciiDigit (d : Nat) : Byte := BitVec.ofNat 8 (0x30 + d)

theorem asciiDigit_toNat {d : Nat} (h : d < 10) : (asciiDigit d).toNat = 0x30 + d :=
  Nat.mod_eq_of_lt (by omega)

theorem asciiDigit_ne_zero {d : Nat} (h : d < 10) (nonzero : d ≠ 0) : asciiDigit d ≠ 0x30 := by
  intro e
  have value := congrArg BitVec.toNat e
  rw [asciiDigit_toNat h] at value
  exact nonzero (Nat.add_eq_left.mp value)

/-! ### The digits of a number -/

/-- The fuel suffices where the number has at most so many binary digits, since each step drops at least one of them. -/
theorem digitsOnto_eq {fuel n : Nat} (enough : n < 2 ^ fuel) (acc : List Byte) :
    digitsOnto fuel n acc = (Nat.digits 10 n).reverse.map asciiDigit ++ acc := by
  induction fuel generalizing n acc with
  | zero =>
    obtain rfl : n = 0 := by omega
    rfl
  | succ fuel ih =>
    rw [digitsOnto]
    split
    case isTrue zero => subst zero; rfl
    case isFalse nonzero =>
      rw [ih (by omega), Nat.digits_def' (by decide) (Nat.pos_of_ne_zero nonzero)]
      simp [asciiDigit]

theorem digits_eq (n : Nat) : digits n = (Nat.digits 10 n).reverse.map asciiDigit := by
  rw [digits, digitsOnto_eq Nat.lt_log2_self, List.append_nil]

/-- R142: only ASCII digits. -/
theorem digits_ascii {n : Nat} {c : Byte} (h : c ∈ digits n) : 0x30 ≤ c.toNat ∧ c.toNat ≤ 0x39 := by
  rw [digits_eq, List.mem_map] at h
  obtain ⟨d, inside, rfl⟩ := h
  have small : d < 10 := Nat.digits_lt_base (by decide) (List.mem_reverse.mp inside)
  rw [asciiDigit_toNat small]
  omega

/-- R142: the most significant digit of a positive number is not 0. -/
theorem digits_no_leading_zero {n : Nat} (positive : 0 < n) : ∃ c rest, digits n = c :: rest ∧ c ≠ 0x30 := by
  have nonempty : Nat.digits 10 n ≠ [] := Nat.digits_ne_nil_iff_ne_zero.mpr positive.ne'
  have small := Nat.digits_lt_base (by decide) (List.getLast_mem nonempty)
  refine ⟨asciiDigit ((Nat.digits 10 n).getLast nonempty), (Nat.digits 10 n).dropLast.reverse.map asciiDigit, ?_,
    asciiDigit_ne_zero small (Nat.getLast_digit_ne_zero 10 positive.ne')⟩
  rw [digits_eq, ← List.map_cons, ← List.reverse_concat, List.dropLast_append_getLast]

/-! ### The value of a text -/

theorem textValue_concat (acc : Nat) (text : List Byte) (c : Byte) :
    textValue acc (text ++ [c]) = textValue acc text * 10 + (c.toNat - 0x30) := by
  induction text generalizing acc with
  | nil => rfl
  | cons _ _ ih => exact ih _

/-- Reading a text is Mathlib's ofDigits, which takes the least significant digit first. -/
theorem textValue_reverse {ds : List Nat} (small : ∀ d ∈ ds, d < 10) :
    textValue 0 (ds.reverse.map asciiDigit) = Nat.ofDigits 10 ds := by
  induction ds with
  | nil => rfl
  | cons d ds ih =>
    obtain ⟨first, others⟩ := List.forall_mem_cons.mp small
    rw [List.reverse_cons, List.map_append, List.map_singleton, textValue_concat, ih others, asciiDigit_toNat first,
      Nat.ofDigits_cons, Nat.add_sub_cancel_left, Nat.mul_comm, Nat.add_comm]

theorem textValue_digits (n : Nat) : textValue 0 (digits n) = n := by
  rw [digits_eq, textValue_reverse fun _ => Nat.digits_lt_base (by decide), Nat.ofDigits_digits]

/-! ### The sign -/

theorem decimal_pos {n : Nat} (positive : 0 < n) : decimal n = digits n := by
  rw [decimal, if_neg (by omega), if_neg (by omega), Int.natAbs_natCast]

theorem decimal_neg {n : Nat} (positive : 0 < n) : decimal (-(n : Int)) = 0x2D :: digits n := by
  rw [decimal, if_neg (by omega), if_pos (by omega), Int.natAbs_neg, Int.natAbs_natCast]

/-- Settles O60: the text is the number's base-ten digits from Mathlib, after the sign. -/
theorem decimalText : Obligations.DecimalText :=
  ⟨rfl, fun n positive => ⟨decimal_pos positive, decimal_neg positive, textValue_digits n, fun _ => digits_ascii,
    digits_no_leading_zero positive⟩⟩

end Sys2Proof.Proofs
end

section
/-! Proofs about the client (spec/43_session_api.md R135-R141, R143, R150, R151): what the calls of the Display Session API
expand into, and that complete calls stay complete. -/

namespace Sys2Proof.Proofs

open Sys2Proof.Machine Sys2Proof.Laws

/-! ### Calls that set an address -/

theorem cmdWord_toNat (b : Byte) : (cmdWord b).toNat = b.toNat :=
  (BitVec.toNat_append 0b00#2 b).trans (by simp)

/-- R66, R70: an address put under a byte's leading bits by OR, as a request word. -/
theorem cmdWord_or_toNat (base : Byte) {p : Nat} (h : p < 256) :
    (cmdWord (base ||| BitVec.ofNat 8 p)).toNat = base.toNat ||| p := by
  rw [cmdWord_toNat, BitVec.toNat_or, BitVec.toNat_ofNat, Nat.mod_eq_of_lt h]

/-- R138: gotoXY sets the DDRAM address of the position. -/
theorem gotoXY_requests {column row : Nat} (legal : row ≤ 1) :
    ∃ a : BitVec 7, a.toNat = row * 0x40 + column % 16 ∧ (ApiCall.gotoXY column row).requests = [0b001#3 ++ a] := by
  have fits : positionAddr column row < 2 ^ 7 := by
    simp only [positionAddr, rowStride, cols]
    omega
  refine ⟨BitVec.ofNat 7 (positionAddr column row), Nat.mod_eq_of_lt fits, ?_⟩
  rw [ApiCall.requests, if_neg (show ¬lastRow < row from Nat.not_lt.mpr legal), List.singleton_inj]
  apply BitVec.eq_of_toNat_eq
  rw [cmdWord_or_toNat _ (by omega), BitVec.toNat_append, BitVec.toNat_ofNat (w := 7), Nat.mod_eq_of_lt fits]
  rfl

/-- R143: loadUserCharacter sets the CGRAM address of the slot, then writes the pattern. -/
theorem loadUserCharacter_requests {slot : Nat} (p : Vector Byte 8) (legal : slot ≤ 7) :
    ∃ a : BitVec 6, a.toNat = 8 * slot ∧
      (ApiCall.loadUserCharacter slot p).requests = (0b0001#4 ++ a) :: p.toList.map fun x => 0b01#2 ++ x := by
  have fits : cgBytes * slot < 2 ^ 6 := by
    simp only [cgBytes]
    omega
  refine ⟨BitVec.ofNat 6 (cgBytes * slot), Nat.mod_eq_of_lt fits, ?_⟩
  rw [ApiCall.requests, if_pos (show slot < cgSlots from Nat.lt_succ_of_le legal)]
  refine congrArg (· :: _) (BitVec.eq_of_toNat_eq ?_)
  rw [cmdWord_or_toNat _ (by omega), BitVec.toNat_append, BitVec.toNat_ofNat (w := 6), Nat.mod_eq_of_lt fits]
  rfl

/-! ### Text -/

/-- R140: after the reposition, characters only. -/
theorem stringData_past {i : Nat} (past : 15 < i) (text : List Byte) : stringData i text = text.map dataWord := by
  induction text generalizing i with
  | nil => rfl
  | cons c rest ih => rw [stringData, if_neg past.ne', ih (by omega), List.map_cons]

/-- R140: from the index i on, the reposition stands after 16 - i characters, if there are so many. -/
theorem stringData_within {i : Nat} (within : i ≤ 15) (text : List Byte) :
    stringData i text = (text.take (16 - i)).map dataWord ++ (if 16 - i ≤ text.length then [cmdWord 0xC0] else [])
      ++ (text.drop (16 - i)).map dataWord := by
  induction text generalizing i with
  | nil =>
    have not_yet : 16 - i ≠ 0 := by omega
    simp [stringData, not_yet]
  | cons c rest ih =>
    rw [stringData]
    split
    case isTrue last =>
      subst last
      simp [stringData_past]
    case isFalse early =>
      have left : 16 - i = 16 - (i + 1) + 1 := by omega
      rw [ih (by omega), left]
      simp

/-- R140: the clear, sixteen characters, the reposition, the rest. -/
theorem displayString_requests (text : List Byte) : (ApiCall.displayString text).requests =
    0x001 :: ((text.take 16).map fun ch => 0b01#2 ++ ch) ++ (if 16 ≤ text.length then [0x0C0] else [])
      ++ (text.drop 16).map fun ch => 0b01#2 ++ ch :=
  congrArg (0x001 :: ·) (stringData_within (Nat.zero_le 15) text)

/-! ### Complete calls -/

theorem clientDone_iff (s : State) :
    clientDone s = true ↔ s.client = [] ∧ (s.emitting = false ∨ s.reqReady = true) := by
  simp [clientDone]

/-- R135: a call that emits nothing adds nothing to the client's list. -/
theorem withCalls_of_requests_nil {c : ApiCall} (nothing : c.requests = []) (s : State) : withCalls [c] s = s := by
  simp [withCalls, nothing]

@[simp] theorem endEmit_endEmit (s : State) : endEmit (endEmit s) = endEmit s := by
  have ready : (endEmit s).reqReady = s.reqReady := rfl
  rw [endEmit, endEmit_emitting, ready, Bool.and_assoc, Bool.and_self]
  rfl

/-- R135: with nothing left to present, the environment's turn starts by ending the emit that is over. -/
theorem envTurn_endEmit {s : State} (nothing : s.client = []) : envTurn (endEmit s) = envTurn s := by
  have turn : clientTurn (endEmit s) = clientTurn s := by
    rw [clientTurn_idle (s := endEmit s) nothing, clientTurn_idle nothing, endEmit_endEmit]
  unfold envTurn
  rw [endEmit_host, turn, endEmit_endEmit]

/-- No request touches the client's emit. -/
theorem request_emitting {w : ReqWord} {s t : State} (h : exec (decodeReq w) s = .next t) : t.emitting = s.emitting := by
  obtain ⟨-, -, e⟩ | ⟨_, -, -, e⟩ | ⟨_, -, -, e⟩ | ⟨_, -, e⟩ := request_cases w s
  all_goals
    cases e.symm.trans h
    rfl

/-- Nothing left to present and no emit outstanding. -/
def ClientIdle (s : State) : Prop := s.client = [] ∧ s.emitting = false

theorem clientIdle_step {s t : State} (idle : ClientIdle s) (h : step s = .next t) : ClientIdle t :=
  step_keeps (P := ClientIdle) (fun _ _ ⟨list, emit⟩ h => envTurn_done h list (.inl emit)) (fun _ idle => idle)
    (fun _ _ _ ⟨list, emit⟩ h =>
      have ⟨_, _, _, _, client, emitting, _⟩ := runPhase_fixed h
      ⟨client.trans list, emitting.trans emit⟩)
    (fun _ _ _ ⟨list, emit⟩ h => ⟨(request_fixed h).client.trans list, (request_emitting h).trans emit⟩)
    (fun _ idle => idle) idle h

/-- R135: complete calls stay complete; an emit that is over has ended before the host moves. -/
theorem clientDone_step {s t : State} (done : clientDone s = true) (h : step s = .next t) : clientDone t = true := by
  obtain ⟨nothing, completed⟩ := (clientDone_iff s).mp done
  have ended : (endEmit s).emitting = false := by
    rw [endEmit_emitting]
    obtain no | ready := completed
    · rw [no, Bool.false_and]
    · rw [ready, Bool.not_true, Bool.and_false]
  have same : step (endEmit s) = step s := by
    rw [step, machineTurn, envTurn_endEmit nothing]
    rfl
  obtain ⟨list, emit⟩ := clientIdle_step (s := endEmit s) ⟨nothing, ended⟩ (same.trans h)
  exact (clientDone_iff t).mpr ⟨list, .inl emit⟩

/-- Settles O59: the expansions call by call, and completion, which the step keeps because an emit that is over ends first. -/
theorem sessionExpansions : Obligations.SessionExpansions := by
  refine ⟨rfl, rfl, fun _ _ => gotoXY_requests, fun _ _ beyond => if_pos beyond, fun _ => rfl, displayString_requests,
    fun _ => rfl, fun _ => loadUserCharacter_requests, fun _ _ beyond => if_neg (Nat.not_lt.mpr beyond), rfl, fun _ => rfl,
    fun c s nothing => ?_, fun _ _ => clientDone_step⟩
  have same := withCalls_of_requests_nil nothing s
  refine ⟨same, fun list emit => ?_⟩
  rw [same]
  exact (clientDone_iff s).mpr ⟨list, .inl emit⟩

end Sys2Proof.Proofs
end

section
/-! Proofs about what one executed bus byte does (spec/44_instruction_bytes.md R156, R176): the transfer, its dispatch by the
byte's leading one, and what no instruction byte touches. -/

namespace Sys2Proof.Proofs

open Sys2Proof.Machine Sys2Proof.Laws

/-! ### The transfer -/

/-- R156: a busy receiver refuses every byte. -/
theorem rxExec_busy {rs : Bool} {b : Byte} {s : State} (busy : s.now < s.rx.xend) :
    rxExec rs b s = .refused .receiverBusy := by
  obtain ⟨eff, transfer⟩ := rxExec_transfer rs b
  rw [transfer, rxTransfer_busy busy]

section

variable {o : Outcome} {rs : Bool} {b : Byte} {f : Receiver → Receiver} {s : State}
  (transfer : o = rxTransfer rs b (fun r => .next (f r)) s)

include transfer

/-- R156: a transfer whose effect cannot refuse, on a ready receiver. -/
theorem plainTransfer_ready (ready : s.rx.xend ≤ s.now) :
    o = .next { s with rx := { f s.rx with xend := s.now + Config.rExec rs b } } :=
  transfer.trans (rxTransfer_ready ready)

/-- Such a transfer that answers leaves its effect on the receiver. -/
theorem plainTransfer_rx {t : State} (h : o = .next t) : t.rx = { f s.rx with xend := t.rx.xend } := by
  obtain ⟨-, r, effect, rfl⟩ := rxTransfer_cases (transfer.symm.trans h)
  cases effect
  rfl

end

theorem rxExec_instruction_rx {b : Byte} {s t : State} (h : rxExec false b s = .next t) :
    ∃ f, InstructionEffect b f ∧ t.rx = { f s.rx with xend := t.rx.xend } := by
  obtain ⟨f, effect⟩ := rxExec_instruction b
  exact ⟨f, effect, plainTransfer_rx (effect.transfer s) h⟩

/-! ### The dispatch -/

theorem decodeByte_functionSet_class (x : BitVec 5) :
    decodeByte (0b001#3 ++ x) = if x = 0b01000 then .functionSet else .functionSetOther x := by
  split
  · next exact_row => rw [exact_row]; rfl
  · next other => exact decodeByte_functionSetOther other

/-- A shift's operand with its low two bits 0 is one of the four listed ones. -/
theorem shift_operand_listed {x : BitVec 4} (h : x.extractLsb' 0 2 = 0) :
    x = 0b0000 ∨ x = 0b0100 ∨ x = 0b1000 ∨ x = 0b1100 := by
  revert x; decide

theorem decodeByte_shift_class (x : BitVec 4) : decodeByte (0b0001#4 ++ x) =
    if x = 0b0000 then .cursorShiftLeft else if x = 0b0100 then .cursorShiftRight
    else if x = 0b1000 then .displayShiftLeft else if x = 0b1100 then .displayShiftRight else .shiftOther x := by
  by_cases listed : x.extractLsb' 0 2 = 0
  · obtain rfl | rfl | rfl | rfl := shift_operand_listed listed
    all_goals rfl
  · obtain ⟨h0, h4, h8, hC⟩ : x ≠ 0b0000 ∧ x ≠ 0b0100 ∧ x ≠ 0b1000 ∧ x ≠ 0b1100 := by
      refine ⟨?_, ?_, ?_, ?_⟩ <;> exact fun e => listed (by rw [e]; rfl)
    rw [decodeByte_shiftOther listed, if_neg h0, if_neg h4, if_neg h8, if_neg hC]

theorem decodeByte_displayControl (d c k : Bool) :
    decodeByte (0b00001#5 ++ BitVec.ofBool d ++ BitVec.ofBool c ++ BitVec.ofBool k) = .displayControl d c k := by
  cases d <;> cases c <;> cases k <;> rfl

theorem decodeByte_entryMode_class (x : BitVec 2) :
    decodeByte (0b000001#6 ++ x) = if x = 0b10 then .entryModeSet else .entryModeOther x := by
  split
  · next exact_row => rw [exact_row]; rfl
  · next other => exact decodeByte_entryModeOther other

theorem decodeByte_instr02Or03 (x : Bool) : decodeByte (0b0000001#7 ++ BitVec.ofBool x) = .instr02Or03 x := by
  cases x <;> rfl

/-- Settles O36: every byte is one transfer, and with RS = 0 the decoder goes by the class of the leading one. -/
theorem transferExecution : Obligations.TransferExecution := by
  refine ⟨fun _ _ _ => rxExec_busy, rxExec_eq_exec, fun _ _ _ _ => rxExec_frame, decodeBus_write, ?_⟩
  simp only [decodeBus_instruction]
  exact ⟨decodeByte_setDdramAddr, decodeByte_setCgramAddr, decodeByte_functionSet_class, decodeByte_shift_class,
    decodeByte_displayControl, decodeByte_entryMode_class, decodeByte_instr02Or03, rfl, rfl⟩

/-! ### What no instruction byte touches -/

/-- Settles O37: the effect of every instruction byte keeps CGRAM, DDRAM except for the clear, and the framing except for a
function set. -/
theorem instructionBytesKeepMemory : Obligations.InstructionBytesKeepMemory := by
  intro b s t h
  obtain ⟨f, effect, rx⟩ := rxExec_instruction_rx h
  rw [rx]
  exact ⟨effect.cg s.rx, fun notClear => effect.mem notClear s.rx, fun noFunctionSet => effect.framing noFunctionSet s.rx⟩

end Sys2Proof.Proofs
end

section
/-! Proofs about data writes (spec/44_instruction_bytes.md R161, R170, R178): what WRITE_DATA does in each memory, and where it
refuses. -/

namespace Sys2Proof.Proofs

open Sys2Proof.Machine Sys2Proof.Laws Sys2Proof.Safety

/-! ### Visible addresses -/

theorem inVis_iff_vis (a : BitVec 7) : inVis a = true ↔ Vis a := by
  simp only [inVis, Vis, Bool.or_eq_true, Bool.and_eq_true, decide_eq_true_eq]

theorem inVis_of_not_vis {a : BitVec 7} (hidden : ¬Vis a) : inVis a = false :=
  Bool.eq_false_of_not_eq_true fun visible => hidden ((inVis_iff_vis a).mp visible)

/-! ### The effect by TARGET and AC -/

section

variable (b : Byte) {a : BitVec 7} {r : Receiver}

theorem writeDataEffect_dd (target : r.target = some .dd) (ac : r.ac = some a) :
    writeDataEffect b r = writeDdEffect a b r := by
  rw [writeDataEffect, target, ac]

theorem writeDataEffect_cg (target : r.target = some .cg) (ac : r.ac = some a) :
    writeDataEffect b r = .next (writeCgEffect a b r) := by
  rw [writeDataEffect, target, ac]

theorem writeDataEffect_unknown (unknown : r.target = none ∨ r.ac = none) :
    writeDataEffect b r = .refused .unknownAddress := by
  obtain none | none := unknown
  · rw [writeDataEffect, none]
  · cases target : r.target with
    | none => rw [writeDataEffect, target]
    | some t => cases t <;> rw [writeDataEffect, target, none]

theorem writeDdEffect_vis (visible : Vis a) : writeDdEffect a b r = .next { r with
    mem := r.mem.writeDd a b
    ac := if r.entry = some .incNoShift then some (a + 1) else none } :=
  if_pos ((inVis_iff_vis a).mpr visible)

theorem writeDdEffect_outside (hidden : ¬Vis a) : writeDdEffect a b r = .refused .outsidePositions := by
  rw [writeDdEffect, inVis_of_not_vis hidden, if_neg Bool.false_ne_true]

end

/-! ### WRITE_DATA on a ready receiver -/

section

variable {b : Byte} {a : BitVec 7} {s : State} (ready : s.rx.xend ≤ s.now)

include ready

theorem exec_writeData_dd (target : s.rx.target = some .dd) (ac : s.rx.ac = some a) (visible : Vis a) :
    exec (.writeData b) s = .next { s with rx := { s.rx with
      mem := s.rx.mem.writeDd a b
      ac := if s.rx.entry = some .incNoShift then some (a + 1) else none
      xend := s.now + Config.rExec true b } } := by
  rw [exec_writeData, rxTransfer_ready ready, writeDataEffect_dd b target ac, writeDdEffect_vis b visible, andThen_next]

theorem exec_writeData_cg (target : s.rx.target = some .cg) (ac : s.rx.ac = some a) :
    exec (.writeData b) s = .next { s with rx := { s.rx with
      mem := s.rx.mem.writeCg (a.extractLsb' 0 6) b
      ac := if a.toNat < 0x3F then some (a + 1) else none
      xend := s.now + Config.rExec true b } } := by
  rw [exec_writeData, rxTransfer_ready ready, writeDataEffect_cg b target ac, andThen_next]
  rfl

theorem exec_writeData_unknown (unknown : s.rx.target = none ∨ s.rx.ac = none) :
    exec (.writeData b) s = .refused .unknownAddress := by
  rw [exec_writeData, rxTransfer_ready ready, writeDataEffect_unknown b unknown, andThen_refused]

theorem exec_writeData_outside (target : s.rx.target = some .dd) (ac : s.rx.ac = some a) (hidden : ¬Vis a) :
    exec (.writeData b) s = .refused .outsidePositions := by
  rw [exec_writeData, rxTransfer_ready ready, writeDataEffect_dd b target ac, writeDdEffect_outside b hidden,
    andThen_refused]

end

/-- A write that answers found the receiver ready. -/
theorem ready_of_writeData {b : Byte} {s t : State} (h : exec (.writeData b) s = .next t) : s.rx.xend ≤ s.now :=
  (rxTransfer_cases ((exec_writeData b s).symm.trans h)).1

/-- A write to DDRAM that answers was to a visible address. -/
theorem vis_of_writeData {b : Byte} {a : BitVec 7} {s t : State} (target : s.rx.target = some .dd)
    (ac : s.rx.ac = some a) (h : exec (.writeData b) s = .next t) : Vis a := by
  by_contra hidden
  exact nomatch (exec_writeData_outside (ready_of_writeData h) target ac hidden).symm.trans h

/-- Settles O33: the one cell is written. -/
theorem writeDataDdram : Obligations.WriteDataDdram := fun b a s ready target ac visible =>
  ⟨_, exec_writeData_dd ready target ac visible, ddAt_writeDd_self s.rx.mem a b,
    fun _ other => ddAt_writeDd_ne s.rx.mem b other, fun c => cgAt_writeDd s.rx.mem a b c, rfl, rfl⟩

/-- Settles O34: the one byte is written. -/
theorem writeDataCgram : Obligations.WriteDataCgram := fun b _ s ready target ac =>
  ⟨_, exec_writeData_cg ready target ac, cgAt_writeCg_self s.rx.mem _ b,
    fun _ other => cgAt_writeCg_ne s.rx.mem b other, fun a' => ddAt_writeCg s.rx.mem _ b a', rfl, rfl⟩

/-- Settles O35: the two refusals of a ready receiver. -/
theorem writeDataRefuses : Obligations.WriteDataRefuses :=
  ⟨fun _ _ => exec_writeData_unknown, fun _ _ _ => exec_writeData_outside⟩

end Sys2Proof.Proofs
end

section
/-! Proofs about the receiver's instructions (spec/44_instruction_bytes.md R157-R172): the whole effect of each on a ready
receiver, and what one leaves to the next. -/

namespace Sys2Proof.Proofs

open Sys2Proof.Machine Sys2Proof.Laws Sys2Proof.Safety

/-! ### Function sets, unlisted bytes, and the display -/

theorem exec_functionSet_ready {s : State} (ready : s.rx.xend ≤ s.now) : exec .functionSet s = .next { s with
    rx := { s.rx with ifmode := some .m4h, func := some .f28, xend := s.now + Config.rExec false 0x28 } } :=
  plainTransfer_ready (exec_functionSet s) ready

/-- R157: in READY the instruction finds what it sets. -/
theorem exec_functionSet_again {s : State} (ready : s.rx.xend ≤ s.now) (framing : s.rx.ifmode = some .m4h)
    (func : s.rx.func = some .f28) : exec .functionSet s =
      .next { s with rx := { s.rx with xend := s.now + Config.rExec false 0x28 } } := by
  rw [exec_functionSet_ready ready, ← framing, ← func]

/-- R157: the second nibble of the pair completes the byte in the framing it sets. -/
theorem rxLatch_functionSet {s : State} (m4l : s.rx.ifmode = some .m4l) (nibhi : s.rx.nibhi = some 0x2) :
    rxLatch false 0x8 s = exec .functionSet { s with rx := { s.rx with ifmode := some .m4h } } := by
  have decoded : decodeBus (busWord false (byteOf 0x2 0x8)) = .functionSet := rfl
  rw [rxLatch_m4l m4l nibhi, rxExec_eq_exec, decoded]

/-- Settles O24: the pair finds 4-bit framing, and INIT loads the byte once. -/
theorem functionSet : Obligations.FunctionSet :=
  ⟨rfl, settleOf_short (by decide), fun _ => exec_functionSet_ready, fun _ => exec_functionSet_again,
    fun _ => rxLatch_functionSet, by decide, by decide⟩

/-- Settles O25: IFMODE by b[4], and what an unlisted byte leaves. -/
theorem functionSetOther : Obligations.FunctionSetOther := fun x s => plainTransfer_ready (exec_functionSetOther x s)

/-- Settles O30: all four rows have the effect of an unlisted byte. -/
theorem unlistedBytes : Obligations.UnlistedBytes :=
  ⟨fun x s => plainTransfer_ready (exec_shiftOther x s), fun x s => plainTransfer_ready (exec_entryModeOther x s),
    fun x s => plainTransfer_ready (exec_instr02Or03 x s), fun s => plainTransfer_ready (exec_instr00 s)⟩

theorem setCursorVisibility_requests (c k : Bool) : (ApiCall.setCursorVisibility c k).requests =
    [0b00000011#8 ++ BitVec.ofBool c ++ BitVec.ofBool k] := by
  cases c <;> cases k <;> rfl

/-- Settles O28: the byte's three low bits are the operands. -/
theorem displayControl : Obligations.DisplayControl :=
  ⟨setCursorVisibility_requests, decodeByte_displayControl,
    fun d c k s => plainTransfer_ready (exec_displayControl d c k s)⟩

/-! ### Cursor and display shifts -/

/-- R163, R164: a cursor shift moves AC under its condition. -/
theorem shiftedAc_moved {ok : BitVec 7 → Bool} {move : BitVec 7 → BitVec 7} {r : Receiver} {a : BitVec 7}
    (target : r.target = some .dd) (ac : r.ac = some a) (visible : Vis a) (inside : ok a = true) :
    shiftedAc ok move r = some (move a) := by
  simp [shiftedAc, target, ac, (inVis_iff_vis a).mpr visible, inside]

/-- R163, R164: otherwise AC is unknown. -/
theorem shiftedAc_unknown {ok : BitVec 7 → Bool} {move : BitVec 7 → BitVec 7} {r : Receiver}
    (outside : ∀ a, r.target = some .dd → r.ac = some a → Vis a → ok a = false) : shiftedAc ok move r = none := by
  unfold shiftedAc
  split
  · next a target ac =>
    refine if_neg fun met => ?_
    obtain ⟨visible, inside⟩ := Bool.and_eq_true_iff.mp met
    exact nomatch (outside a target ac ((inVis_iff_vis a).mp visible)).symm.trans inside
  · rfl

theorem exec_cursorShiftLeft_ready {s : State} (ready : s.rx.xend ≤ s.now) : exec .cursorShiftLeft s = .next { s with
    rx := { s.rx with
      ac := shiftedAc (fun a => decide (0 < column a)) (· - 1) s.rx, xend := s.now + Config.rExec false 0x10 } } :=
  plainTransfer_ready (exec_cursorShiftLeft s) ready

theorem exec_cursorShiftRight_ready {s : State} (ready : s.rx.xend ≤ s.now) : exec .cursorShiftRight s = .next { s with
    rx := { s.rx with
      ac := shiftedAc (fun a => decide (column a < 15)) (· + 1) s.rx, xend := s.now + Config.rExec false 0x14 } } :=
  plainTransfer_ready (exec_cursorShiftRight s) ready

/-- Settles O26: each shift has its condition on the column. -/
theorem cursorShifts : Obligations.CursorShifts := by
  refine ⟨rfl, rfl, rfl, rfl, fun s a ready target ac visible inside => ?_, fun s ready outside => ?_,
    fun s a ready target ac visible inside => ?_, fun s ready outside => ?_⟩
  · rw [exec_cursorShiftLeft_ready ready, shiftedAc_moved target ac visible (decide_eq_true inside)]
  · rw [exec_cursorShiftLeft_ready ready, shiftedAc_unknown]
    exact fun a target ac visible => decide_eq_false fun inside => outside ⟨a, target, ac, visible, inside⟩
  · rw [exec_cursorShiftRight_ready ready, shiftedAc_moved target ac visible (decide_eq_true inside)]
  · rw [exec_cursorShiftRight_ready ready, shiftedAc_unknown]
    exact fun a target ac visible => decide_eq_false fun inside => outside ⟨a, target, ac, visible, inside⟩

/-- R165, R166: a shift to the right undoes one to the left. -/
theorem shift_left_right {s t u v : State} (left : exec .displayShiftLeft s = .next t) (rx : u.rx = t.rx)
    (right : exec .displayShiftRight u = .next v) : v.rx.shift = s.rx.shift := by
  have first : t.rx.shift = s.rx.shift.map (· + 1) := by rw [plainTransfer_rx (exec_displayShiftLeft s) left]
  have second : v.rx.shift = u.rx.shift.map (· - 1) := by rw [plainTransfer_rx (exec_displayShiftRight u) right]
  rw [second, rx, first, Option.map_map]
  simp [Function.comp_def]

/-- Settles O27: the shifts add and take away one. -/
theorem displayShifts : Obligations.DisplayShifts :=
  ⟨rfl, rfl, rfl, rfl, fun s => plainTransfer_ready (exec_displayShiftLeft s),
    fun s => plainTransfer_ready (exec_displayShiftRight s), fun _ _ _ _ => shift_left_right⟩

/-! ### Entry mode and clear -/

/-- R161, R170: with ENTRY set, a write to DDRAM that answers advances AC by one. -/
theorem writeData_dd_advances {s t : State} {a : BitVec 7} {b : Byte} (entry : s.rx.entry = some .incNoShift)
    (target : s.rx.target = some .dd) (ac : s.rx.ac = some a) (h : exec (.writeData b) s = .next t) :
    t.rx.ac = some (a + 1) ∧ t.rx.shift = s.rx.shift ∧ t.rx.entry = some .incNoShift := by
  have written := exec_writeData_dd (b := b) (ready_of_writeData h) target ac (vis_of_writeData target ac h)
  cases written.symm.trans h
  exact ⟨if_pos entry, rfl, entry⟩

/-- R161, R170: a write to CGRAM that answers advances AC below 0x3F. -/
theorem writeData_cg_advances {s t : State} {a : BitVec 7} {b : Byte} (entry : s.rx.entry = some .incNoShift)
    (target : s.rx.target = some .cg) (ac : s.rx.ac = some a) (h : exec (.writeData b) s = .next t) :
    t.rx.ac = (if a.toNat < 0x3F then some (a + 1) else none) ∧ t.rx.shift = s.rx.shift
      ∧ t.rx.entry = some .incNoShift := by
  have written := exec_writeData_cg (b := b) (ready_of_writeData h) target ac
  cases written.symm.trans h
  exact ⟨rfl, rfl, entry⟩

/-- Settles O29: the instruction sets ENTRY, which decides AC after a write to DDRAM. -/
theorem entryModeSet : Obligations.EntryModeSet :=
  ⟨rfl, settleOf_short (by decide), fun s => plainTransfer_ready (exec_entryModeSet s),
    fun _ _ _ _ => writeData_dd_advances, fun _ _ _ _ => writeData_cg_advances⟩

/-- Settles O31: the whole effect, and its idempotence. -/
theorem clearDisplay : Obligations.ClearDisplay := by
  refine ⟨fun s ready => ⟨_, plainTransfer_ready (exec_clearDisplay s) ready, rfl, ddAt_clearDd s.rx.mem,
    cgAt_clearDd s.rx.mem⟩, fun s t u v first same second => ?_⟩
  rw [plainTransfer_rx (exec_clearDisplay u) second, same, plainTransfer_rx (exec_clearDisplay s) first]
  rfl

/-! ### Addresses -/

/-- R168: after SET_CGRAM_ADDR a data write goes to that byte of CGRAM. -/
theorem writeData_after_setCgramAddr {a : BitVec 6} {b : Byte} {s t u v : State}
    (set : exec (.setCgramAddr a) s = .next t) (same : u.rx = t.rx) (write : exec (.writeData b) u = .next v) :
    v.rx.mem.cgAt a = some b ∧ ∀ a', v.rx.mem.ddAt a' = t.rx.mem.ddAt a' := by
  have set := plainTransfer_rx (exec_setCgramAddr a s) set
  have target : u.rx.target = some .cg := by rw [same, set]
  have ac : u.rx.ac = some (a.setWidth 7) := by rw [same, set]
  have low : (a.setWidth 7).extractLsb' 0 6 = a := by
    rw [← BitVec.setWidth_eq_extractLsb' (by decide), BitVec.setWidth_setWidth_of_le _ (by decide), BitVec.setWidth_eq]
  have written := exec_writeData_cg (b := b) (ready_of_writeData write) target ac
  cases written.symm.trans write
  rw [low, same]
  exact ⟨cgAt_writeCg_self _ a b, ddAt_writeCg _ a b⟩

/-- R169: an address outside VIS is accepted, and a write there refuses. -/
theorem writeData_after_setDdramAddr {a : BitVec 7} {b : Byte} {s t u : State}
    (set : exec (.setDdramAddr a) s = .next t) (hidden : ¬Vis a) (same : u.rx = t.rx) (ready : u.rx.xend ≤ u.now) :
    exec (.writeData b) u = .refused .outsidePositions := by
  have set := plainTransfer_rx (exec_setDdramAddr a s) set
  exact exec_writeData_outside ready (by rw [same, set]) (by rw [same, set]) hidden

/-- R168, R169: setting the same address again changes only XEND. -/
theorem setCgramAddr_again {a : BitVec 6} {s t u v : State} (first : exec (.setCgramAddr a) s = .next t)
    (same : u.rx = t.rx) (second : exec (.setCgramAddr a) u = .next v) : v.rx = { t.rx with xend := v.rx.xend } := by
  rw [plainTransfer_rx (exec_setCgramAddr a u) second, same, plainTransfer_rx (exec_setCgramAddr a s) first]

theorem setDdramAddr_again {a : BitVec 7} {s t u v : State} (first : exec (.setDdramAddr a) s = .next t)
    (same : u.rx = t.rx) (second : exec (.setDdramAddr a) u = .next v) : v.rx = { t.rx with xend := v.rx.xend } := by
  rw [plainTransfer_rx (exec_setDdramAddr a u) second, same, plainTransfer_rx (exec_setDdramAddr a s) first]

/-- R103: no address byte is in the default long set. -/
theorem settleOf_address (b : Byte) : settleOf Config.initial.longSet false (b ||| 0x40) = .short
    ∧ settleOf Config.initial.longSet false (b ||| 0x80) = .short := by
  revert b; decide +kernel

/-- R66, R70: the request word of SET_DDRAM_ADDR's byte. -/
theorem cmdWord_setDdramAddr (a : BitVec 7) : cmdWord (1#1 ++ a) = 0b001#3 ++ a := by
  revert a; decide +kernel

/-- R169: gotoXY emits only addresses of the 16x2 positions. -/
theorem gotoXY_visible (column row : Nat) : (ApiCall.gotoXY column row).requests = []
    ∨ ∃ a, Vis a ∧ (ApiCall.gotoXY column row).requests = [cmdWord (1#1 ++ a)] := by
  by_cases legal : row ≤ 1
  · obtain ⟨a, place, requests⟩ := gotoXY_requests (column := column) legal
    refine .inr ⟨a, ?_, by rw [requests, cmdWord_setDdramAddr]⟩
    unfold Vis
    omega
  · exact .inl (if_pos (Nat.lt_of_not_le legal))

/-- Settles O32: what the address instructions set, and what a data write finds of it. -/
theorem setAddresses : Obligations.SetAddresses :=
  ⟨decodeByte_setCgramAddr, decodeByte_setDdramAddr, fun a s => plainTransfer_ready (exec_setCgramAddr a s),
    fun _ _ _ _ _ _ => writeData_after_setCgramAddr, fun a s => plainTransfer_ready (exec_setDdramAddr a s),
    fun _ _ _ _ _ => setCgramAddr_again,
    fun _ _ _ _ _ => setDdramAddr_again, by decide, fun _ _ _ _ _ => writeData_after_setDdramAddr, settleOf_address,
    gotoXY_visible⟩

end Sys2Proof.Proofs
end

section
/-! Proofs about the latch (spec/44_instruction_bytes.md R153-R155): how the bootstrap's nibbles make every framing converge, and
what a step at a falling edge executes. -/

namespace Sys2Proof.Proofs

open Sys2Proof.Machine Sys2Proof.Laws Sys2Proof.Safety

/-! ### The bootstrap -/

/-- R155: a nibble latched in 8-bit framing executes a byte with that high half. -/
theorem framing_after_m8 {n : Nibble} {s t : State} (m8 : s.rx.ifmode = some .m8) (h : rxLatch false n s = .next t) :
    (n = 3 → t.rx.ifmode = some .m8) ∧ (n = 2 → t.rx.ifmode = some .m4h) := by
  obtain ⟨x, u, -, exec⟩ := latch_in_m8 m8 h
  obtain ⟨three, two, -⟩ := rxExec_instruction_framing exec
  rw [hi_byteOf] at three two
  exact ⟨three, two⟩

/-- R155: a second 3 in 4-bit framing completes the function set 0x33. -/
theorem framing_after_midByte {s t : State} (mid : midByte s 3) (h : rxLatch false 3 s = .next t) :
    t.rx.ifmode = some .m8 := by
  obtain ⟨u, -, -, exec⟩ := latch_in_midByte mid h
  exact (rxExec_instruction_framing exec).1 (hi_byteOf 3 3)

/-- R155: the first 3 finds any framing, and may complete any byte with low half 3. -/
theorem framing_after_first {s t : State} (h : rxLatch false 3 s = .next t) :
    t.rx.ifmode = some .m8 ∨ t.rx.ifmode = some .m4h ∨ midByte t 3 := by
  obtain ⟨f, -, case⟩ := rxLatch_instruction_cases h
  cases f with
  | m8 =>
    obtain ⟨x, u, -, -, -, exec⟩ := case
    exact .inl ((rxExec_instruction_framing exec).1 (hi_byteOf 3 x))
  | m4h =>
    have stored : t.rx = { s.rx with ifmode := some .m4l, nibhi := some 3 } := case
    exact .inr (.inr ⟨by rw [stored], by rw [stored]⟩)
  | m4l =>
    obtain ⟨x, u, -, rx, -, exec⟩ := case
    by_cases three : hi (byteOf x 3) = 3
    · exact .inl ((rxExec_instruction_framing exec).1 three)
    · exact .inr (.inl (rxExec_keeps_m4h exec (.inr three) (by rw [rx])))

/-- R155: at each edge of the bootstrap the receiver goes on to the framing of the next. -/
theorem framed_bootstrap {e : Edge} {n : Nibble} {s t : State} (nibble : e.nibble = .const n) (framed : e.framed s)
    (h : rxLatch false n s = .next t) : e.next.framed t := by
  cases e with
  | pulse1 => cases nibble; exact framing_after_first h
  | pulse2 =>
    cases nibble
    obtain m8 | m4h | mid := framed
    · exact .inl ((framing_after_m8 m8 h).1 rfl)
    · exact .inr (latch_in_m4h m4h h).1
    · exact .inl (framing_after_midByte mid h)
  | pulse3 =>
    cases nibble
    obtain m8 | mid := framed
    · exact (framing_after_m8 m8 h).1 rfl
    · exact framing_after_midByte mid h
  | switch => cases nibble; exact (framing_after_m8 framed h).2 rfl
  | high => cases nibble
  | low => cases nibble

/-- Settles O38: the framings the four edges of the bootstrap find, one after the other; no nibble of theirs is a half of the
clear. -/
theorem bootstrapConverges : Obligations.BootstrapConverges := by
  refine ⟨fun s1 s2 s3 s4 t1 t2 t3 t4 latch1 rx1 latch2 rx2 latch3 rx3 latch4 => ?_,
    fun n _ => rxLatch_instruction_ready n⟩
  have carried {e : Edge} {s t : State} (pulse : e ≠ .low) (rx : s.rx = t.rx) (framed : e.framed t) : e.framed s :=
    Edge.framed_congr framed rx fun low => absurd low pulse
  have framed2 : Edge.pulse2.framed t1 := framed_bootstrap (e := .pulse1) rfl trivial latch1
  have framed3 : Edge.pulse3.framed t2 := framed_bootstrap (e := .pulse2) rfl (carried (by decide) rx1 framed2) latch2
  have framed4 : Edge.switch.framed t3 := framed_bootstrap (e := .pulse3) rfl (carried (by decide) rx2 framed3) latch3
  have framed5 : Edge.high.framed t4 := framed_bootstrap (e := .switch) rfl (carried (by decide) rx3 framed4) latch4
  have mem1 := rxLatch_instruction_mem (by decide) (by decide) latch1
  have mem2 := rxLatch_instruction_mem (by decide) (by decide) latch2
  have mem3 := rxLatch_instruction_mem (by decide) (by decide) latch3
  have mem4 := rxLatch_instruction_mem (by decide) (by decide) latch4
  exact ⟨framed4, framed5, by rw [mem4, rx3, mem3, rx2, mem2, rx1, mem1]⟩

/-! ### A step at a falling edge -/

/-- R117: no single nibble's group begins with a falling edge. -/
theorem nibbleAt_at_eLo {s : State} (at_pc : s.sched.steps[s.step]? = some .eLo) : nibbleAt s = none := by
  have places : ∀ k ∈ [4, 11, 18, 25], initSchedule[k]? ≠ some .eLo := by decide
  unfold nibbleAt
  split
  · next init =>
    rw [init] at at_pc
    have elsewhere : ∀ k ∈ [4, 11, 18, 25], s.step ≠ k := fun k listed here => places k listed (here ▸ at_pc)
    have ⟨h4, h11, h18, h25⟩ : s.step ≠ 4 ∧ s.step ≠ 11 ∧ s.step ≠ 18 ∧ s.step ≠ 25 := by simpa using elsewhere
    simp [h4, h11, h18, h25]
  · rfl

/-- R92, R153: on a driven bus the step at a falling edge is the receiver's latch. -/
theorem step_at_eLo {s u : State} (env : envTurn s = .next u) (legal : configLegal u.cfg = true)
    (noReset : u.rst = false) (at_pc : u.sched.steps[u.step]? = some .eLo) (driven : u.oe = true) :
    step s = andThen (rxLatch u.lineRs u.lineD (dropE u)) fun t => .next (elapse (advance t)) := by
  have run : step s = runPhase (.whole .eLo) u :=
    stepRunsSchedule.2 s u .eLo env legal noReset at_pc (nibbleAt_at_eLo at_pc)
  rw [run, runPhase, microEffect, doELo, if_pos driven]

/-- Settles O18: the latch in each of the three framings. -/
theorem stepRunsFormedByte : Obligations.StepRunsFormedByte := by
  refine ⟨fun s u h i env legal noReset at_pc driven m4l nibhi decoded => ?_,
    fun s u i env legal noReset at_pc driven m8 decoded => ?_, fun s u env legal noReset at_pc driven m4h => ?_⟩
  · have decoded : decodeBus (busWord u.lineRs (byteOf h u.lineD)) = i := Except.ok.inj decoded
    rw [step_at_eLo env legal noReset at_pc driven, rxLatch_m4l (s := dropE u) m4l nibhi, rxExec_eq_exec, decoded,
      dropE_rx]
  · have decoded : decodeBus (busWord u.lineRs (byteOf u.lineD (Config.freeNibble u.draws))) = i :=
      Except.ok.inj decoded
    rw [step_at_eLo env legal noReset at_pc driven, rxLatch_m8 (s := dropE u) m8, rxExec_eq_exec, dropE_draws, decoded]
  · rw [step_at_eLo env legal noReset at_pc driven, rxLatch_m4h (s := dropE u) m4h, dropE_rx, andThen_next]

end Sys2Proof.Proofs
end

section
/-! Proofs about refusals (spec/00_scope.md R11, 44_instruction_bytes.md R156, R173): a refusal that no due phase makes no step
makes, and under A_SETTLE_SUFFICES no due phase finds the receiver busy. -/

namespace Sys2Proof.Proofs

open Sys2Proof.Machine Sys2Proof.Laws Sys2Proof.Safety

/-! ### The phases still to run -/

/-- The phases from pc to the end of the schedule; of a WAIT in progress only the end is left. -/
def phasesLeft (s : State) : List Phase :=
  match s.waitFrom with
  | none => (s.sched.steps.drop s.step).flatMap Micro.phases
  | some _ => ((s.sched.steps.drop s.step).flatMap Micro.phases).tail

theorem phasesLeft_idle {s : State} (idle : s.waitFrom = none) :
    phasesLeft s = (s.sched.steps.drop s.step).flatMap Micro.phases := by
  rw [phasesLeft, idle]

theorem phasesLeft_waiting {s : State} (waiting : s.waitFrom ≠ none) :
    phasesLeft s = ((s.sched.steps.drop s.step).flatMap Micro.phases).tail := by
  obtain ⟨t0, from_t0⟩ := Option.ne_none_iff_exists'.mp waiting
  rw [phasesLeft, from_t0]

/-- Where STEP advances the steps after pc are left. -/
theorem drop_advanced {m : Micro} {s : State} (at_pc : s.sched.steps[s.step]? = some m) :
    (advance s).sched.steps.drop (advance s).step = s.sched.steps.drop (s.step + 1) := by
  obtain ⟨-, sched, step⟩ | ⟨last, sched, step⟩ := advance_cases at_pc
  · rw [sched, step]
  · rw [sched, last, List.drop_length]
    exact List.drop_nil

theorem phases_of_isWait_false {m : Micro} (noWait : isWait m = false) (s : State) : m.phases = [m.duePhase s] := by
  cases m with
  | wait w => cases noWait
  | _ => rfl

/-- The phase due is the first left, and once it has run the others are. -/
theorem phasesLeft_at_pc {m : Micro} {s : State} (block : BlockInv s) (at_pc : s.sched.steps[s.step]? = some m) :
    ∃ rest, phasesLeft s = m.duePhase s :: rest
      ∧ ∀ t, runPhase (m.duePhase s) s = .next t → phasesLeft t = rest := by
  have here := drop_eq_cons at_pc
  have advanced {t : State} (sched : t.sched = (advance s).sched) (step : t.step = (advance s).step)
      (idle : t.waitFrom = none) : phasesLeft t = (s.sched.steps.drop (s.step + 1)).flatMap Micro.phases := by
    rw [phasesLeft_idle idle, sched, step, drop_advanced at_pc]
  cases hm : isWait m with
  | false =>
    have idle := waitFrom_of_micro block at_pc hm
    refine ⟨(s.sched.steps.drop (s.step + 1)).flatMap Micro.phases, ?_, fun t run => ?_⟩
    · rw [phasesLeft_idle idle, here, List.flatMap_cons, phases_of_isWait_false hm s, List.singleton_append]
    · obtain ⟨w, rfl, -⟩ | ⟨sched, step, waitFrom⟩ := duePhase_advances run
      · cases hm
      · exact advanced sched step (by rw [waitFrom, hm, idle]; rfl)
  | true =>
    obtain ⟨w, rfl⟩ : ∃ w, m = .wait w := by
      cases m with
      | wait w => exact ⟨w, rfl⟩
      | _ => cases hm
    by_cases idle : s.waitFrom = none
    · have due : (Micro.wait w).duePhase s = .waitBegin w := by rw [Micro.duePhase, idle]; rfl
      refine ⟨.waitEnd w :: (s.sched.steps.drop (s.step + 1)).flatMap Micro.phases, ?_, fun t run => ?_⟩
      · rw [phasesLeft_idle idle, here, due]
        rfl
      · rw [due] at run
        cases run
        rw [phasesLeft_waiting (by simp), waitBegin_sched, waitBegin_step, here]
        rfl
    · have due : (Micro.wait w).duePhase s = .waitEnd w := by simp [Micro.duePhase, idle]
      refine ⟨(s.sched.steps.drop (s.step + 1)).flatMap Micro.phases, ?_, fun t run => ?_⟩
      · rw [phasesLeft_waiting idle, here, due]
        rfl
      · rw [due] at run
        cases run
        exact advanced rfl rfl rfl

/-- A group of the phases left begins with the one due, and goes on with the phases left after it. -/
theorem due_of_phasesLeft {p : Phase} {ps : List Phase} {s : State} (block : BlockInv s)
    (left : p :: ps <+: phasesLeft s) : ∃ m, s.sched.steps[s.step]? = some m ∧ p = m.duePhase s
      ∧ ∀ t, runPhase p s = .next t → ps <+: phasesLeft t := by
  cases at_pc : s.sched.steps[s.step]? with
  | none =>
    have ended : s.sched.steps.drop s.step = [] := List.drop_eq_nil_of_le (List.getElem?_eq_none_iff.mp at_pc)
    have nothing : phasesLeft s = [] := by
      unfold phasesLeft
      rw [ended]
      split <;> rfl
    rw [nothing] at left
    exact nomatch List.prefix_nil.mp left
  | some m =>
    obtain ⟨rest, first, after⟩ := phasesLeft_at_pc block at_pc
    rw [first] at left
    obtain ⟨rfl, others⟩ := List.cons_prefix_cons.mp left
    exact ⟨m, rfl, rfl, fun t run => (after t run).symm ▸ others⟩

theorem phasesLeft_envTurn {s t : State} (h : envTurn s = .next t) : phasesLeft t = phasesLeft s := by
  rw [(envTurn_frame h).1]
  rfl

/-! ### Where a step can refuse -/

/-- The environment's turn refuses only power applied too late (R197). -/
theorem envTurn_refused {s : State} {r : Refusal} (h : envTurn s = .refused r) : r = .powerAfterInit := by
  unfold envTurn at h
  split at h
  · cases h
  · obtain move | ⟨u, -, next⟩ := andThen_eq_refused h
    · unfold hostMove at move
      split at move
      · cases move
      · cases move
      · split at move
        · cases move; rfl
        · cases move
      · cases move
      · cases move
    · cases next

/-- A request is never refused (R180). -/
theorem acceptTurn_not_refused (s : State) (r : Refusal) : acceptTurn s ≠ .refused r := by
  intro h
  obtain refused | ⟨t, -, next⟩ := andThen_eq_refused h
  · obtain ⟨-, -, e⟩ | ⟨_, -, -, e⟩ | ⟨_, -, -, e⟩ | ⟨_, -, e⟩ := request_cases s.reqWord { s with reqValid := false }
    all_goals exact nomatch e.symm.trans refused
  · cases next

theorem runGroup_refused_cases {p q : Phase} {rest : List Phase} {s : State} {r : Refusal}
    (h : runGroup (p :: q :: rest) s = .refused r) :
    runPhase p s = .refused r ∨ ∃ u, runPhase p s = .next u
      ∧ (envTurn u = .refused r ∨ ∃ v, envTurn u = .next v ∧ runGroup (q :: rest) v = .refused r) := by
  obtain first | ⟨u, run, next⟩ := andThen_eq_refused h
  · exact .inl first
  · refine .inr ⟨u, run, ?_⟩
    obtain env | ⟨v, env, next⟩ := andThen_eq_refused next
    · exact .inl env
    · refine .inr ⟨v, env, ?_⟩
      split at next
      · cases next
      · exact next

section

variable {P : State → Prop} {r : Refusal} (block : ∀ s, P s → BlockInv s)
  (env : ∀ s t, P s → envTurn s = .next t → P t)
  (due : ∀ m s t, P s → s.sched.steps[s.step]? = some m → runPhase (m.duePhase s) s = .next t → P t)
  (notPower : r ≠ .powerAfterInit)
  (notDue : ∀ m s, P s → s.sched.steps[s.step]? = some m → runPhase (m.duePhase s) s ≠ .refused r)

include block env due notPower notDue

/-- A group of the phases left refuses only as a due phase or the environment's turn does. -/
theorem runGroup_not_refused {ps : List Phase} {s : State} (hP : P s) (left : ps <+: phasesLeft s) :
    runGroup ps s ≠ .refused r := by
  induction ps generalizing s with
  | nil => exact fun h => nomatch h
  | cons p rest ih =>
    intro h
    obtain ⟨m, at_pc, rfl, after⟩ := due_of_phasesLeft (block s hP) left
    cases rest with
    | nil => exact notDue m s hP at_pc h
    | cons q rest =>
      obtain refused | ⟨u, run, turn⟩ := runGroup_refused_cases h
      · exact notDue m s hP at_pc refused
      · obtain refused | ⟨v, turn, next⟩ := turn
        · exact notPower (envTurn_refused refused)
        · have hu : P u := due m s u hP at_pc run
          refine ih (env u v hu turn) ?_ next
          rw [phasesLeft_envTurn turn]
          exact after u run

/-- The groups of the single nibbles are phases left where they begin. -/
theorem scheduleTurn_not_refused {s : State} (hP : P s) : scheduleTurn s ≠ .refused r := by
  have group {ops : List Micro} {i : Instr} (fetched : fetchNibble s = some i)
      (at_pc : ops <+: s.sched.steps.drop s.step) : runGroup (ops.flatMap Micro.phases) s ≠ .refused r := by
    refine runGroup_not_refused block env due notPower notDue hP ?_
    rw [phasesLeft_idle (waitFrom_of_fetchNibble (block s hP) (by rw [fetched]; exact Option.some_ne_none i))]
    exact at_pc.flatMap Micro.phases
  unfold scheduleTurn
  split
  · next i fetched =>
    obtain ⟨init, ⟨place, rfl⟩ | ⟨step, rfl⟩⟩ := fetchNibble_cases fetched
    · refine group fetched (ops := bootGroup (bootWait s.step)) ?_
      rw [init]
      obtain step | step | step := place <;> (rw [step]; decide)
    · exact group fetched (ops := switchGroup) (by rw [init, step]; decide)
  · split
    · next m at_pc => exact notDue m s hP at_pc
    · exact fun h => nomatch h

/-- What no due phase refuses no step refuses, but for an illegal configuration and the environment. -/
theorem step_not_refused (legal : r ≠ .illegalConfig) {s : State} (hP : P s) : step s ≠ .refused r := by
  intro h
  obtain refused | ⟨u, turn, h⟩ := andThen_eq_refused h
  · exact notPower (envTurn_refused refused)
  split at h
  · unfold blockTurn at h
    split at h
    · cases h
    · split at h
      · exact scheduleTurn_not_refused block env due notPower notDue (env s u hP turn) h
      · split at h
        · exact acceptTurn_not_refused u r h
        · cases h
  · cases h
    exact legal rfl

end

/-! ### The receiver never busy -/

/-- A data write never refuses for a busy receiver: that is the transfer's check (R156, R170). -/
theorem writeDataEffect_not_busy (b : Byte) (x : Receiver) : writeDataEffect b x ≠ .refused .receiverBusy := by
  intro h
  unfold writeDataEffect writeDdEffect at h
  split at h
  · split at h <;> cases h
  · cases h
  · cases h

/-- A byte is refused so only by a receiver that is busy. -/
theorem rxExec_not_busy (rs : Bool) (b : Byte) {s : State} (ready : s.rx.xend ≤ s.now) :
    rxExec rs b s ≠ .refused .receiverBusy := by
  cases rs with
  | true =>
    intro h
    rw [rxExec_eq_exec, decodeBus_write, exec_writeData, rxTransfer_ready ready] at h
    obtain refused | ⟨x, -, next⟩ := andThen_eq_refused h
    · exact writeDataEffect_not_busy b s.rx refused
    · cases next
  | false =>
    obtain ⟨t, answers⟩ := rxExec_instruction_ready b ready
    rw [answers]
    exact fun h => nomatch h

/-- A latch stores a nibble or executes a byte. -/
theorem rxLatch_not_busy (rs : Bool) (n : Nibble) {s : State} (ready : s.rx.xend ≤ s.now) :
    rxLatch rs n s ≠ .refused .receiverBusy := by
  have known (f : Framing) (u : State) (ready : u.rx.xend ≤ u.now) : latchIn f rs n u ≠ .refused .receiverBusy := by
    cases f with
    | m8 => exact rxExec_not_busy rs _ ready
    | m4h => exact fun h => nomatch h
    | m4l =>
      rw [latchIn]
      split
      · exact rxExec_not_busy rs _ ready
      · exact rxExec_not_busy rs _ ready
  unfold rxLatch
  split
  · exact known _ _ ready
  · exact known _ _ ready

/-- R173: an edge that is due finds the receiver ready. -/
theorem duePhase_not_busy {m : Micro} {s : State} (block : BlockInv s) (receiver : ReceiverInv s)
    (at_pc : s.sched.steps[s.step]? = some m) : runPhase (m.duePhase s) s ≠ .refused .receiverBusy := by
  cases m with
  | eLo =>
    intro h
    have ready : s.rx.xend ≤ s.now := ready_at_pc receiver at_pc (waitFrom_of_micro block at_pc rfl)
    obtain refused | ⟨t, -, next⟩ := andThen_eq_refused h
    · have latched : doELo s = .refused .receiverBusy := refused
      rw [doELo, if_pos (driven_at_eLo block at_pc)] at latched
      exact rxLatch_not_busy _ _ (s := dropE s) ready latched
    · cases next
  | wait w =>
    rw [Micro.duePhase]
    split
    · exact fun h => nomatch h
    · exact fun h => nomatch h
  | _ => exact fun h => nomatch h

theorem receiverKept_envTurn {c : Config} {s t : State} (kept : ReceiverKept c s) (h : envTurn s = .next t) :
    ReceiverKept c t :=
  ⟨(envTurn_cfg h).trans kept.cfg, blockInv_envTurn kept.block h, scheduleInv_envTurn kept.schedule h,
    receiverInv_envTurn kept.block kept.receiver h⟩

theorem receiverKept_duePhase {c : Config} {m : Micro} {s t : State} (enough : SettleSuffices c)
    (kept : ReceiverKept c s) (at_pc : s.sched.steps[s.step]? = some m) (h : runPhase (m.duePhase s) s = .next t) :
    ReceiverKept c t :=
  ⟨(runPhase_fixed h).1.trans kept.cfg, blockInv_duePhase kept.block at_pc h,
    (schedule_duePhase kept.block kept.schedule at_pc h).1,
    receiverInv_duePhase (kept.cfg ▸ enough) kept.block kept.schedule kept.receiver at_pc h⟩

/-- Settles O55: all through a step the next falling edge finds the receiver ready. -/
theorem receiverNeverBusy : Obligations.ReceiverNeverBusy := fun s enough block schedule receiver =>
  step_not_refused (P := ReceiverKept s.cfg) (fun _ kept => kept.block) (fun _ _ => receiverKept_envTurn)
    (fun _ _ _ => receiverKept_duePhase enough) (by decide)
    (fun _ _ kept => duePhase_not_busy kept.block kept.receiver) (by decide) ⟨rfl, block, schedule, receiver⟩

end Sys2Proof.Proofs
end

section
/-! Proofs about FAULT (spec/60_exceptions.md R180, R181, R189): only a request with a cause enters it, and only rst leaves
it. -/

namespace Sys2Proof.Proofs

open Sys2Proof.Machine Sys2Proof.Laws Sys2Proof.Safety

/-! ### The cause of an accepted request -/

/-- R67: INIT has one word. -/
theorem decodeReq_eq_init_iff (w : ReqWord) : decodeReq w = .init ↔ w = 0x200 := by
  refine ⟨fun init => ?_, fun word => by rw [word]; rfl⟩
  have encoded := encode_decodeReq w
  rw [init] at encoded
  exact (Code.req10.inj encoded).symm

/-- R181 by the decoded request. -/
theorem faultCause_cases (w : ReqWord) (f : Fsm) :
    (∃ x, decodeReq w = .reservedReq x ∧ faultCause w f = .reservedReq)
      ∨ (decodeReq w = .init ∧ faultCause w f = if f = .uninit then .none else .reinit)
      ∨ (((∃ b, decodeReq w = .cmd b) ∨ ∃ b, decodeReq w = .data b)
        ∧ faultCause w f = if f = .ready then .none else .notReady) := by
  by_cases k : w.getLsbD 9 = true
  · by_cases operand : w.extractLsb' 0 9 = 0
    · have init : decodeReq w = .init := by rw [decodeReq, if_pos k, if_pos operand]
      have word : w = 0x200 := (decodeReq_eq_init_iff w).mp init
      refine .inr (.inl ⟨init, ?_⟩)
      rw [word]
      cases f <;> rfl
    · exact .inl ⟨_, by rw [decodeReq, if_pos k, if_neg operand], if_pos ⟨k, operand⟩⟩
  · have other : w ≠ 0x200 := fun word => k (by rw [word]; rfl)
    refine .inr (.inr ⟨?_, ?_⟩)
    · rw [decodeReq, if_neg k]
      split
      · exact .inr ⟨_, rfl⟩
      · exact .inl ⟨_, rfl⟩
    · have transfer : w.getLsbD 9 = false := Bool.eq_false_of_not_eq_true k
      rw [faultCause, if_neg fun reserved => k reserved.1, if_neg fun init => other init.1]
      simp only [transfer, true_and, ne_eq, ite_not]

/-- A request with a cause is the entry of R180 with that code. -/
theorem exec_of_faultCause {w : ReqWord} {s : State} (cause : faultCause w s.fsm ≠ .none) :
    exec (decodeReq w) s = .next (takeFault (faultCause w s.fsm) s) := by
  obtain ⟨x, word, code⟩ | ⟨word, code⟩ | ⟨⟨b, word⟩ | ⟨b, word⟩, code⟩ := faultCause_cases w s.fsm
  · rw [word, code, exec_reservedReq]
  · have again : s.fsm ≠ .uninit := by simpa [code] using cause
    rw [word, code, if_neg again, exec_init_again again]
  · have early : s.fsm ≠ .ready := by simpa [code] using cause
    rw [word, code, if_neg early, exec_cmd_early early]
  · have early : s.fsm ≠ .ready := by simpa [code] using cause
    rw [word, code, if_neg early, exec_data_early early]

/-- A request that leaves FSM at FAULT has a cause: without one FSM is UNINIT or READY, and a schedule starts. -/
theorem faultCause_of_fault {w : ReqWord} {s t : State} (h : exec (decodeReq w) s = .next t) (fault : t.fsm = .fault) :
    faultCause w s.fsm ≠ .none := by
  intro noCause
  obtain ⟨x, -, code⟩ | ⟨word, code⟩ | ⟨⟨b, word⟩ | ⟨b, word⟩, code⟩ := faultCause_cases w s.fsm
  · cases code.symm.trans noCause
  · have first : s.fsm = .uninit := by simpa [code] using noCause
    cases (exec_init_first first).symm.trans (word ▸ h)
    cases fault
  · have ready : s.fsm = .ready := by simpa [code] using noCause
    cases (exec_cmd_ready ready b).symm.trans (word ▸ h)
    cases ready.symm.trans fault
  · have ready : s.fsm = .ready := by simpa [code] using noCause
    cases (exec_data_ready ready b).symm.trans (word ▸ h)
    cases ready.symm.trans fault

/-! ### A turn inside a schedule -/

theorem runPhase_not_fault {p : Phase} {s t : State} (h : runPhase p s = .next t) (notFault : p ≠ .whole (.setFsm .fault))
    (running : s.fsm ≠ .fault) : t.fsm ≠ .fault := by
  cases p with
  | waitBegin w => cases h; exact running
  | waitEnd w => cases h; exact running
  | whole m =>
    obtain ⟨u, effect, rfl⟩ := runPhase_whole_cases h
    rw [elapse_fsm, advance_fsm]
    by_cases write : ∃ f, m = .setFsm f
    · obtain ⟨f, rfl⟩ := write
      cases effect
      exact fun fault => notFault (congrArg (fun f => Phase.whole (.setFsm f)) fault)
    · rw [microEffect_fsm effect (not_exists.mp write)]
      exact running

/-- A whole phase is that of its own micro-operation. -/
theorem eq_of_whole_mem_phases {m x : Micro} (h : .whole x ∈ m.phases) : m = x := by
  cases m with
  | wait w => simp [Micro.phases] at h
  | _ => exact (Phase.whole.inj (List.mem_singleton.mp h)).symm

theorem duePhase_mem_phases (m : Micro) (s : State) : m.duePhase s ∈ m.phases := by
  cases m with
  | wait w => by_cases idle : s.waitFrom.isNone <;> simp [Micro.duePhase, Micro.phases, idle]
  | _ => exact List.mem_singleton.mpr rfl

/-- A group none of whose micro-operations sets FSM to FAULT does not reach it. -/
theorem runGroup_not_fault {ops : List Micro} {s t : State} (notListed : .setFsm .fault ∉ ops)
    (h : runGroup (ops.flatMap Micro.phases) s = .next t) (running : s.fsm ≠ .fault) : t.fsm ≠ .fault := by
  refine runGroup_keeps (P := fun u => u.fsm ≠ .fault) (fun u v running env => ?_) (fun _ _ => nofun) _
    (fun p listed u v running phase => runPhase_not_fault phase ?_ running) s t running h
  · rw [(envTurn_frame env).1]
    exact running
  · rintro rfl
    obtain ⟨m, listed, phase⟩ := List.mem_flatMap.mp listed
    exact notListed (eq_of_whole_mem_phases phase ▸ listed)

theorem scheduleTurn_not_fault {s t : State} (h : scheduleTurn s = .next t) (running : s.fsm ≠ .fault) :
    t.fsm ≠ .fault := by
  obtain ⟨-, group⟩ | ⟨-, group⟩ | ⟨-, m, at_pc, phase⟩ := scheduleTurn_cases h
  · exact runGroup_not_fault (by simp [bootGroup, present, pulse]) group running
  · exact runGroup_not_fault (by decide) group running
  · refine runPhase_not_fault phase (fun due => ?_) running
    obtain rfl : m = .setFsm .fault := eq_of_whole_mem_phases (due ▸ duePhase_mem_phases m s)
    exact absurd (setFsm_operand (List.mem_of_getElem? at_pc)) (by decide)

/-! ### Entering FAULT -/

/-- A step that accepts a request with a cause is the entry of R180. -/
theorem step_of_faultCause {s u : State} (env : envTurn s = .next u) (legal : configLegal u.cfg = true)
    (accepts : u.accepts = true) (cause : faultCause u.reqWord u.fsm ≠ .none) :
    step s = .next (elapse (takeFault (faultCause u.reqWord u.fsm) { u with reqValid := false })) := by
  rw [step_accepting env legal accepts, acceptTurn, exec_of_faultCause (s := { u with reqValid := false }) cause,
    andThen_next]

/-- Settles O12: a reset, a schedule's turn and an idle turn do not reach FAULT, and an accepted request does so exactly with a
cause. -/
theorem faultOnlyAtAcceptance : Obligations.FaultOnlyAtAcceptance := by
  refine ⟨fun s t running h fault => ?_, fun s u => step_of_faultCause⟩
  obtain ⟨u, env, legal, turn⟩ := step_cases h
  have running : u.fsm ≠ .fault := by rw [(envTurn_frame env).1]; exact running
  obtain ⟨-, rfl⟩ | ⟨-, -, inside⟩ | ⟨-, -, accepts, v, accepted, elapsed⟩ | ⟨-, -, -, rfl⟩ := blockTurn_cases turn
  · cases fault
  · exact absurd fault (scheduleTurn_not_fault inside running)
  · rw [elapsed, elapse_fsm] at fault
    have cause := faultCause_of_fault accepted fault
    exact ⟨u, env, accepts, cause, Host.Outcome.next.inj (h.symm.trans (step_of_faultCause env legal accepts cause))⟩
  · exact absurd fault running

/-! ### Staying in FAULT -/

/-- R187, R189: a step from FAULT, outside a schedule, is the environment's turn and then a reset or the passing of time. -/
theorem step_in_fault {s u t : State} (fault : s.fsm = .fault) (outside : s.sched = .none) (env : envTurn s = .next u)
    (h : step s = .next t) : u.rst = true ∧ t = holdReset u ∨ u.rst = false ∧ t = elapse u := by
  have frame := (envTurn_frame env).1
  obtain ⟨v, env', -, turn⟩ := step_cases h
  cases env.symm.trans env'
  obtain reset | ⟨-, inside, -⟩ | ⟨-, -, accepts, -⟩ | ⟨noReset, -, -, idle⟩ := blockTurn_cases turn
  · exact .inl reset
  · exact absurd (by rw [frame]; exact outside) inside
  · obtain ⟨-, -, running, -⟩ := accepts_iff.mp accepts
    exact absurd (by rw [frame]; exact fault) running
  · exact .inr ⟨noReset, idle⟩

/-- R33, R197: in FAULT, once the bus has been driven, the environment's turn leaves the receiver alone. -/
theorem rx_envTurn_in_fault {s u : State} (fault : s.fsm = .fault) (driven : s.oe = true) (env : envTurn s = .next u) :
    u.rx = s.rx := by
  obtain ⟨-, ⟨-, same⟩ | ⟨notAccepted, -⟩⟩ := envTurn_frame env
  · exact same
  · rw [initAccepted, fault, driven] at notAccepted
    cases notAccepted

/-- Settles O13: the environment's turn writes only the port, rst, its scripts and an undriven bus's receiver; the block's is a
reset or the passing of time. -/
theorem faultIsSticky : Obligations.FaultIsSticky := by
  intro s u t fault outside env h
  obtain ⟨reset, rfl⟩ | ⟨noReset, rfl⟩ := step_in_fault fault outside env h
  · exact ⟨fun noReset => (nomatch reset.symm.trans noReset), fun _ => ⟨rfl, rfl, rfl⟩⟩
  · refine ⟨fun _ => ?_, fun reset => nomatch reset.symm.trans noReset⟩
    have rx : s.oe = true → u.rx = s.rx := fun driven => rx_envTurn_in_fault fault driven env
    have notReady : u.reqReady = false := by rw [reqReady_eq, (envTurn_frame env).1, fault]; simp
    rw [(envTurn_frame env).1] at notReady ⊢
    exact ⟨fault, rfl, decide_eq_true fault, notReady, outside, rfl, rfl, rfl, rfl, rfl, rfl, rfl, rfl, rfl, rx, rfl, rfl⟩

end Sys2Proof.Proofs
end

section
/-!
Proofs about rst = 1 (spec/70_reset_and_hazards.md R200): what the block holds then, and what a rise of rst between two phases
drops.
-/

namespace Sys2Proof.Proofs

open Sys2Proof.Machine Sys2Proof.Laws

/-- R187: rst = 1 goes before everything else. -/
theorem blockTurn_reset {u : State} (reset : u.rst = true) : blockTurn u = .next (holdReset u) := by
  rw [blockTurn, if_pos reset]

/-- A step whose environment's turn leaves rst = 1 is the block's reset. -/
theorem step_reset {s u : State} (env : envTurn s = .next u) (legal : configLegal u.cfg = true) (reset : u.rst = true) :
    step s = .next (holdReset u) := by
  rw [step_of_envTurn env, if_pos legal, blockTurn_reset reset]

/-- R24: a block held in reset accepts nothing. -/
theorem reqReady_holdReset {u : State} (reset : u.rst = true) : (holdReset u).reqReady = false := by
  simp [reqReady_eq, reset]

/-- R24: with rst = 0 again it is ready. -/
theorem reqReady_afterReset (u : State) : ({ holdReset u with rst := false } : State).reqReady = true := rfl

/-- R200: rst = 1 between the first phase of a group and the second drops the rest of the group. -/
theorem runGroup_reset {p q : Phase} {rest : List Phase} {s u v : State} (phase : runPhase p s = .next u)
    (env : envTurn u = .next v) (reset : v.rst = true) : runGroup (p :: q :: rest) s = .next (holdReset v) := by
  rw [runGroup, phase, andThen_next, env, andThen_next, if_pos reset]

/-- Settles O14: the environment's turn leaves trace, latched stream and configuration alone, and the reset that follows it,
in a turn of the block or inside a group, sets the rest. -/
theorem resetHolds : Obligations.ResetHolds := by
  refine ⟨fun s u env legal reset => ⟨holdReset u, step_reset env legal reset, ?_⟩, fun _ _ _ _ _ _ => runGroup_reset⟩
  have frame := (envTurn_frame env).1
  have trace : u.trace = s.trace := by rw [frame]
  have latched : u.latched = s.latched := by rw [frame]
  have cfg : u.cfg = s.cfg := envTurn_cfg env
  exact ⟨rfl, rfl, rfl, rfl, rfl, rfl, rfl, reqReady_holdReset reset, pinLevel_released (holdReset_oe u), trace, latched,
    cfg, rfl, reqReady_afterReset u⟩

end Sys2Proof.Proofs
end
